-- ==== Sys2Proof/Word.lean ====
section
/-! DEFINITION. The plain bit-vector types of the block: every value of the spec is unsigned (R12). -/

namespace Sys2Proof

/-- A byte, `u8` (R12). -/
abbrev Byte := BitVec 8

/-- A request, payload or response word, 32 bits (R67, R74). -/
abbrev Word := BitVec 32

/-- A 4-bit half of a byte (00_scope.md, glossary). -/
abbrev Nibble := BitVec 4

/-- An I2C target address, `u7` (R8, R43). -/
abbrev BusAddr := BitVec 7

end Sys2Proof
end

