-- ==== Sys2Proof/Syntax.lean ====
section
/-! DEFINITION. The instructions: one constructor for each row of spec/opcode_table.json. The first 23 are the requests
(R66, R68); the last eight are the HD44780 command-byte rows (R77), which the block sends with RS = 0. -/

namespace Sys2Proof

/-- The eight glyph rows of CREATE_CHAR, `glyph[0]` first (R70, R131). -/
structure Glyph where
  g0 : Byte
  g1 : Byte
  g2 : Byte
  g3 : Byte
  g4 : Byte
  g5 : Byte
  g6 : Byte
  g7 : Byte
  deriving DecidableEq, Repr

/-- The glyph's rows in the order they are sent (R131). -/
def Glyph.rows (g : Glyph) : List Byte := [g.g0, g.g1, g.g2, g.g3, g.g4, g.g5, g.g6, g.g7]

/-- One operation record (R66), or one HD44780 command byte with its fields (R77). -/
inductive Instr where
  | init
  | clear
  | home
  | setCursor (col row : Byte)
  | displayOn
  | displayOff
  | cursorOn
  | cursorOff
  | blinkOn
  | blinkOff
  | scrollLeft
  | scrollRight
  | leftToRight
  | rightToLeft
  | autoscrollOn
  | autoscrollOff
  | createChar (slot : Byte) (glyph : Glyph)
  | backlightOn
  | backlightOff
  | getBacklight
  | command (value : Byte)
  | write (value : Byte)
  | printstr (text : List Byte)
  | lcdClear
  | lcdHome (x : BitVec 1)
  | lcdEntryMode (id s : BitVec 1)
  | lcdDisplayControl (d c b : BitVec 1)
  | lcdShift (sc rl : BitVec 1) (x : BitVec 2)
  | lcdFunctionSet (dl n f : BitVec 1) (x : BitVec 2)
  | lcdSetCgram (addr : BitVec 6)
  | lcdSetDdram (addr : BitVec 7)
  deriving DecidableEq, Repr

end Sys2Proof
end

