-- ==== Sys2Proof/WellFormed.lean ====
section
/-! DEFINITION. The instructions an encoding exists for. Every operand's width is in its type; the one further bound of the
spec is the 16-bit length of PRINTSTR (R67, R69, R115). -/

namespace Sys2Proof

/-- PRINTSTR's length fits in `len: u16` (R69). -/
abbrev Instr.lengthFits : Instr → Bool
  | .printstr text => decide (text.length ≤ 65535)
  | _ => true

/-- The instruction can be encoded. -/
abbrev Instr.wellFormed (i : Instr) : Bool := i.lengthFits

/-- The instruction is one of the 23 requests of R68, not an HD44780 command byte of R77. -/
abbrev Instr.isRequest : Instr → Bool
  | .lcdClear | .lcdHome _ | .lcdEntryMode _ _ | .lcdDisplayControl _ _ _ | .lcdShift _ _ _
  | .lcdFunctionSet _ _ _ _ | .lcdSetCgram _ | .lcdSetDdram _ => false
  | _ => true

end Sys2Proof
end

