-- ==== Sys2Proof/Decode.lean ====
section
/-! DEFINITION. The decoder of requests (R67 to R73) and of HD44780 command bytes (R77), total on any words; then the
encoder, written from the same tables; then the pseudo-instructions (R81). -/

namespace Sys2Proof

/-! ## Fields -/

/-- `w[31:24]`, the opcode of a header; also byte 0 of a payload word (R67, R50). -/
def fieldOp (w : Word) : Byte := w.extractLsb' 24 8

/-- `w[23:16]`, operand A; byte 1 of a payload word. -/
def fieldA (w : Word) : Byte := w.extractLsb' 16 8

/-- `w[15:8]`, operand B; byte 2 of a payload word. -/
def fieldB (w : Word) : Byte := w.extractLsb' 8 8

/-- `w[7:0]`; byte 3 of a payload word. -/
def fieldC (w : Word) : Byte := w.extractLsb' 0 8

/-- `w[15:0]`, the length of PRINTSTR (R67, R69). -/
def fieldLen (w : Word) : Nat := (w.extractLsb' 0 16).toNat

/-- The four bytes of a payload word, bits 31:24 first (R50). -/
def bytesOfWord (w : Word) : List Byte := [fieldOp w, fieldA w, fieldB w, fieldC w]

/-- The bytes of a list of payload words, in sequence order (R70). -/
def bytesOfWords : List Word → List Byte
  | [] => []
  | w :: ws => bytesOfWord w ++ bytesOfWords ws

/-- The word whose bytes are `a`, `b`, `c`, `d` from bits 31:24 down (R50, R67). -/
def wordOfBytes (a b c d : Byte) : Word := a ++ b ++ c ++ d

/-- `ceil(n / 4)`, the number of payload words of an `n`-byte string (R70, R71). -/
def payloadWords (n : Nat) : Nat := (n + 3) / 4

/-! ## Opcodes and lengths -/

/-- The opcode of an instruction (R68). An HD44780 command byte is submitted as COMMAND (log entry 8). -/
def opcodeOf : Instr → Byte
  | .init => 0x01#8
  | .clear => 0x02#8
  | .home => 0x03#8
  | .setCursor _ _ => 0x04#8
  | .displayOn => 0x05#8
  | .displayOff => 0x06#8
  | .cursorOn => 0x07#8
  | .cursorOff => 0x08#8
  | .blinkOn => 0x09#8
  | .blinkOff => 0x0A#8
  | .scrollLeft => 0x0B#8
  | .scrollRight => 0x0C#8
  | .leftToRight => 0x0D#8
  | .rightToLeft => 0x0E#8
  | .autoscrollOn => 0x0F#8
  | .autoscrollOff => 0x10#8
  | .createChar _ _ => 0x11#8
  | .backlightOn => 0x12#8
  | .backlightOff => 0x13#8
  | .getBacklight => 0x14#8
  | .command _ => 0x15#8
  | .write _ => 0x16#8
  | .printstr _ => 0x17#8
  | .lcdClear => 0x15#8
  | .lcdHome _ => 0x15#8
  | .lcdEntryMode _ _ => 0x15#8
  | .lcdDisplayControl _ _ _ => 0x15#8
  | .lcdShift _ _ _ => 0x15#8
  | .lcdFunctionSet _ _ _ _ => 0x15#8
  | .lcdSetCgram _ => 0x15#8
  | .lcdSetDdram _ => 0x15#8

/-- The length of a request in words (R71). -/
def lengthOf : Instr → Nat
  | .createChar _ _ => 3
  | .printstr text => 1 + payloadWords text.length
  | _ => 1

/-- The length of a request found from its header alone (R71). -/
def lengthFromHeader (w : Word) : Nat :=
  if fieldOp w = 0x11#8 then 3
  else if fieldOp w = 0x17#8 then 1 + payloadWords (fieldLen w)
  else 1

/-! ## The request decoder -/

/-- Why a request is illegal (R72): the three cases of that rule. -/
inductive Illegal where
  | reservedOpcode
  | reservedBits
  | padding
  deriving DecidableEq, Repr

/-- The answer of the decoder (R73): `NONE`, `INCOMPLETE`, `ILLEGAL` with its reason, or a request. -/
inductive Decoded where
  | none
  | incomplete
  | illegal (why : Illegal)
  | request (i : Instr)
  deriving DecidableEq, Repr

/-- Format F0: bits 23:0 must be 0 (R67). -/
def decodeF0 (w : Word) (i : Instr) : Decoded :=
  if fieldA w = 0#8 ∧ fieldB w = 0#8 ∧ fieldC w = 0#8 then .request i else .illegal .reservedBits

/-- Format F1: operand A, bits 15:0 must be 0 (R67). -/
def decodeF1 (w : Word) (f : Byte → Instr) : Decoded :=
  if fieldB w = 0#8 ∧ fieldC w = 0#8 then .request (f (fieldA w)) else .illegal .reservedBits

/-- Format F2: operands A and B, bits 7:0 must be 0 (R67). -/
def decodeF2 (w : Word) (f : Byte → Byte → Instr) : Decoded :=
  if fieldC w = 0#8 then .request (f (fieldA w) (fieldB w)) else .illegal .reservedBits

/-- Format FC, CREATE_CHAR: format F1 plus two payload words (R67, R70, R73). -/
def decodeFC (w : Word) (rest : List Word) : Decoded :=
  if fieldB w = 0#8 ∧ fieldC w = 0#8 then
    match rest with
    | p0 :: p1 :: _ =>
      .request (.createChar (fieldA w)
        ⟨fieldOp p0, fieldA p0, fieldB p0, fieldC p0, fieldOp p1, fieldA p1, fieldB p1, fieldC p1⟩)
    | _ => .incomplete
  else .illegal .reservedBits

/-- Format FS, PRINTSTR: the length in bits 15:0, bits 23:16 must be 0, then the payload, whose padding must be 0
(R67, R70, R72, R73). -/
def decodeFS (w : Word) (rest : List Word) : Decoded :=
  if fieldA w = 0#8 then
    if rest.length < payloadWords (fieldLen w) then .incomplete
    else
      let bytes := bytesOfWords (rest.take (payloadWords (fieldLen w)))
      if (bytes.drop (fieldLen w)).all (· == 0#8) then .request (.printstr (bytes.take (fieldLen w)))
      else .illegal .padding
  else .illegal .reservedBits

/-- One request, from its header and the words after it (R68, R73). -/
def decodeRequest (w : Word) (rest : List Word) : Decoded :=
  if fieldOp w = 0x01#8 then decodeF0 w .init
  else if fieldOp w = 0x02#8 then decodeF0 w .clear
  else if fieldOp w = 0x03#8 then decodeF0 w .home
  else if fieldOp w = 0x04#8 then decodeF2 w .setCursor
  else if fieldOp w = 0x05#8 then decodeF0 w .displayOn
  else if fieldOp w = 0x06#8 then decodeF0 w .displayOff
  else if fieldOp w = 0x07#8 then decodeF0 w .cursorOn
  else if fieldOp w = 0x08#8 then decodeF0 w .cursorOff
  else if fieldOp w = 0x09#8 then decodeF0 w .blinkOn
  else if fieldOp w = 0x0A#8 then decodeF0 w .blinkOff
  else if fieldOp w = 0x0B#8 then decodeF0 w .scrollLeft
  else if fieldOp w = 0x0C#8 then decodeF0 w .scrollRight
  else if fieldOp w = 0x0D#8 then decodeF0 w .leftToRight
  else if fieldOp w = 0x0E#8 then decodeF0 w .rightToLeft
  else if fieldOp w = 0x0F#8 then decodeF0 w .autoscrollOn
  else if fieldOp w = 0x10#8 then decodeF0 w .autoscrollOff
  else if fieldOp w = 0x11#8 then decodeFC w rest
  else if fieldOp w = 0x12#8 then decodeF0 w .backlightOn
  else if fieldOp w = 0x13#8 then decodeF0 w .backlightOff
  else if fieldOp w = 0x14#8 then decodeF0 w .getBacklight
  else if fieldOp w = 0x15#8 then decodeF1 w .command
  else if fieldOp w = 0x16#8 then decodeF1 w .write
  else if fieldOp w = 0x17#8 then decodeFS w rest
  else .illegal .reservedOpcode

/-- `decode(words, pc)` of R73: `NONE` when the stream has no word at `pc`. -/
def decode (words : List Word) (pc : Nat) : Decoded :=
  match words.drop pc with
  | [] => .none
  | w :: rest => decodeRequest w rest

/-! ## HD44780 command bytes (R77) -/

/-- Which row of R77 a command byte matches, with its fields: the highest bit set decides. The byte 0x00 matches none. -/
def decodeLcd (b : Byte) : Option Instr :=
  if b.getLsbD 7 then some (.lcdSetDdram (b.extractLsb' 0 7))
  else if b.getLsbD 6 then some (.lcdSetCgram (b.extractLsb' 0 6))
  else if b.getLsbD 5 then
    some (.lcdFunctionSet (b.extractLsb' 4 1) (b.extractLsb' 3 1) (b.extractLsb' 2 1) (b.extractLsb' 0 2))
  else if b.getLsbD 4 then some (.lcdShift (b.extractLsb' 3 1) (b.extractLsb' 2 1) (b.extractLsb' 0 2))
  else if b.getLsbD 3 then
    some (.lcdDisplayControl (b.extractLsb' 2 1) (b.extractLsb' 1 1) (b.extractLsb' 0 1))
  else if b.getLsbD 2 then some (.lcdEntryMode (b.extractLsb' 1 1) (b.extractLsb' 0 1))
  else if b.getLsbD 1 then some (.lcdHome (b.extractLsb' 0 1))
  else if b.getLsbD 0 then some .lcdClear
  else Option.none

/-! ## The encoder -/

/-- The command byte of LCD_CLEAR, `0000 0001` (R77). -/
def lcdClearByte : Byte := 0x01#8

/-- The command byte of LCD_HOME, `0000 001x` (R77). -/
def lcdHomeByte (x : BitVec 1) : Byte := 1#7 ++ x

/-- The command byte of LCD_ENTRY_MODE, `0000 01 ID S` (R77). -/
def lcdEntryModeByte (id s : BitVec 1) : Byte := 1#6 ++ id ++ s

/-- The command byte of LCD_DISPLAY_CONTROL, `0000 1 D C B` (R77). -/
def lcdDisplayControlByte (d c b : BitVec 1) : Byte := 1#5 ++ d ++ c ++ b

/-- The command byte of LCD_SHIFT, `0001 SC RL x x` (R77). -/
def lcdShiftByte (sc rl : BitVec 1) (x : BitVec 2) : Byte := 1#4 ++ sc ++ rl ++ x

/-- The command byte of LCD_FUNCTION_SET, `001 DL N F x x` (R77). -/
def lcdFunctionSetByte (dl n f : BitVec 1) (x : BitVec 2) : Byte := 1#3 ++ dl ++ n ++ f ++ x

/-- The command byte of LCD_SET_CGRAM, `01 a5..a0` (R77). -/
def lcdSetCgramByte (addr : BitVec 6) : Byte := 1#2 ++ addr

/-- The command byte of LCD_SET_DDRAM, `1 a6..a0` (R77). -/
def lcdSetDdramByte (addr : BitVec 7) : Byte := 1#1 ++ addr

/-- The byte of an HD44780 command row (R77); a request has none. -/
def lcdByte : Instr → Option Byte
  | .lcdClear => some lcdClearByte
  | .lcdHome x => some (lcdHomeByte x)
  | .lcdEntryMode id s => some (lcdEntryModeByte id s)
  | .lcdDisplayControl d c b => some (lcdDisplayControlByte d c b)
  | .lcdShift sc rl x => some (lcdShiftByte sc rl x)
  | .lcdFunctionSet dl n f x => some (lcdFunctionSetByte dl n f x)
  | .lcdSetCgram addr => some (lcdSetCgramByte addr)
  | .lcdSetDdram addr => some (lcdSetDdramByte addr)
  | _ => Option.none

/-- A string's bytes as payload words, big-endian within a word, padded with 0 (R50, R70). -/
def packBytes : List Byte → List Word
  | [] => []
  | [a] => [wordOfBytes a 0#8 0#8 0#8]
  | [a, b] => [wordOfBytes a b 0#8 0#8]
  | [a, b, c] => [wordOfBytes a b c 0#8]
  | a :: b :: c :: d :: rest => wordOfBytes a b c d :: packBytes rest

/-- A header of format F0 (R67). -/
def headerF0 (op : Byte) : Word := wordOfBytes op 0#8 0#8 0#8

/-- A header of format F1 (R67). -/
def headerF1 (op a : Byte) : Word := wordOfBytes op a 0#8 0#8

/-- A header of format F2 (R67). -/
def headerF2 (op a b : Byte) : Word := wordOfBytes op a b 0#8

/-- A header of format FS: the length in bits 15:0 (R67). -/
def headerFS (op : Byte) (len : BitVec 16) : Word := op ++ 0#8 ++ len

/-- The words of an instruction (R67 to R70); an HD44780 command byte is carried by a COMMAND (log entry 8). -/
def encode (i : Instr) : List Word :=
  match i with
  | .setCursor col row => [headerF2 (opcodeOf i) col row]
  | .createChar slot g =>
    [headerF1 (opcodeOf i) slot, wordOfBytes g.g0 g.g1 g.g2 g.g3, wordOfBytes g.g4 g.g5 g.g6 g.g7]
  | .command value => [headerF1 (opcodeOf i) value]
  | .write value => [headerF1 (opcodeOf i) value]
  | .printstr text => headerFS (opcodeOf i) (BitVec.ofNat 16 text.length) :: packBytes text
  | .lcdClear => [headerF1 (opcodeOf i) lcdClearByte]
  | .lcdHome x => [headerF1 (opcodeOf i) (lcdHomeByte x)]
  | .lcdEntryMode id s => [headerF1 (opcodeOf i) (lcdEntryModeByte id s)]
  | .lcdDisplayControl d c b => [headerF1 (opcodeOf i) (lcdDisplayControlByte d c b)]
  | .lcdShift sc rl x => [headerF1 (opcodeOf i) (lcdShiftByte sc rl x)]
  | .lcdFunctionSet dl n f x => [headerF1 (opcodeOf i) (lcdFunctionSetByte dl n f x)]
  | .lcdSetCgram addr => [headerF1 (opcodeOf i) (lcdSetCgramByte addr)]
  | .lcdSetDdram addr => [headerF1 (opcodeOf i) (lcdSetDdramByte addr)]
  | .init | .clear | .home | .displayOn | .displayOff | .cursorOn | .cursorOff | .blinkOn | .blinkOff
  | .scrollLeft | .scrollRight | .leftToRight | .rightToLeft | .autoscrollOn | .autoscrollOff
  | .backlightOn | .backlightOff | .getBacklight => [headerF0 (opcodeOf i)]

/-! ## The opcode table's own numbering of bits -/

/-- The words of an instruction whose bits are `w`, the header in bits 31:0 and each later word above it; every bit at or above
`nbits` is 0. -/
def tableWords (nbits w : Nat) : List Word :=
  let v := w % 2 ^ nbits
  (List.range (lengthFromHeader (BitVec.ofNat 32 v))).map fun k => BitVec.ofNat 32 (v / 2 ^ (32 * k))

/-- The instruction the decoder reads from an instruction whose bits are `w`, numbered as the opcode table numbers them: a row of
one byte is an HD44780 command byte (R77), a row of 32 bits a request (R67). -/
def decodeTableWord (nbits w : Nat) : Option Instr :=
  if nbits ≤ 8 then decodeLcd (BitVec.ofNat 8 (w % 2 ^ nbits))
  else
    match decode (tableWords nbits w) 0 with
    | .request i => some i
    | _ => Option.none

/-! ## Pseudo-instructions (R81) -/

/-- The three pseudo-instructions of R81. -/
inductive Pseudo where
  | setDdram (a : Byte)
  | setCgram (a : Byte)
  | putc (c : Byte)
  deriving DecidableEq, Repr

/-- The one request a pseudo-instruction expands to; an assembler refuses it where its condition fails (R81). -/
def expandPseudo : Pseudo → Option Instr
  | .setDdram a => if a ≤ 0x7F#8 then some (.command (0x80#8 ||| a)) else Option.none
  | .setCgram a => if a ≤ 0x3F#8 then some (.command (0x40#8 ||| a)) else Option.none
  | .putc c => some (.write c)

end Sys2Proof
end

