-- ==== Sys2Proof/Config.lean ====
section
/-! DEFINITION. What is fixed when a block is constructed (R8, R9), and the free values of the model: constants
without a body, of which nothing can be proved. -/

namespace Sys2Proof

/-- The character-cell size selector (R8). -/
inductive CharSize where
  | dots5x8
  | dots5x10
  deriving DecidableEq, Repr, Inhabited

/-- The configuration of a block (R8, R22). `cols` is stored and read by no rule (R8, D30). -/
structure Cfg where
  addr : BusAddr
  cols : Byte
  rows : Byte
  charsize : CharSize
  deriving DecidableEq, Repr, Inhabited

/-- The expander bit assignment `P` (R9): one mask for each control line. -/
structure Masks where
  rs : Byte
  rw : Byte
  en : Byte
  bl : Byte
  deriving DecidableEq, Repr, Inhabited

/-- A single bit in positions 3:0 (R9). -/
abbrev oneLowBit (m : Byte) : Bool := m == 0x01#8 || m == 0x02#8 || m == 0x04#8 || m == 0x08#8

/-- The constraint of R9: four single bits in 3:0, pairwise distinct. -/
abbrev Masks.legal (p : Masks) : Bool :=
  oneLowBit p.rs && oneLowBit p.rw && oneLowBit p.en && oneLowBit p.bl &&
    p.rs != p.rw && p.rs != p.en && p.rs != p.bl && p.rw != p.en && p.rw != p.bl && p.en != p.bl

/-- The default masks of R9. -/
def Masks.default : Masks := { rs := 0x01#8, rw := 0x02#8, en := 0x04#8, bl := 0x08#8 }

/-- The configuration of `State.reset`. DESIGN CHOICE, unsafe (log entry 1): the spec gives no default configuration; this is the
one its test vectors use (95_test_vectors.md). -/
def Cfg.atReset : Cfg := { addr := 0x27#7, cols := 16#8, rows := 2#8, charsize := .dots5x8 }

/-- What the transport does with one transaction: `count` and `status` are the two components of the oracle's answer Ω(n)
(R84); `landed` says whether the byte of a FAILED transaction reached the expander's pins (R44 admits both). -/
structure TxOutcome where
  count  : Nat
  status : Byte
  landed : Bool
  deriving DecidableEq, Repr, Inhabited

/-- The oracle Ω (R84) and the latch choice of R44 for every transaction that the state's `outcomes` do not fix.
A FREE VALUE, safe (log entries 2 and 3): nothing constrains it. -/
opaque Config.freeOutcome : Nat → TxOutcome

/-- The expander latch before the first transaction (R44, R158, U9). A FREE VALUE, safe (log entry 4). -/
opaque Config.powerUpLatch : Byte

end Sys2Proof
end

