-- ==== Sys2Proof/Machine/State.lean ====
section
/-! DEFINITION. The state of the block as plain data (R21), with the host's side of its interface (R160) and the two external
observations the spec defines (R44, R64); its reset (R41, R157); the reasons a step can stop. -/

namespace Sys2Proof.Machine

/-- The initialization sequencer's states, in the order of R29. -/
inductive InitState where
  | unpowered
  | forceBusReset
  | forceDdram8to4First
  | forceDdram8to4Second
  | forceDdram8to4Third
  | setInterfaceWidth
  | functionSet
  | displayOn
  | cleared
  | entryModeSet
  | homed
  | ready
  deriving DecidableEq, Repr

/-- The two shadows a toggle can find unwritten (R138: 1 = dctl, 2 = dmode). -/
inductive Shadow where
  | dctl
  | dmode
  deriving DecidableEq, Repr

/-- The model faults of R138 with the info each records. They are the block's synchronous exceptions: taking one is a NEXT
state (R139), not a stop of the step function. -/
inductive FaultCode where
  | illegalRequest (pc : Nat)
  | notInitialized (op : Byte)
  | unwrittenShadow (which : Shadow)
  | rowIndexOutOfRange (r : Byte)
  deriving DecidableEq, Repr

/-- What a step emits (R31). -/
inductive Event where
  | busBegin
  | tx (addr : BusAddr) (byte : Byte) (count : Nat) (status : Byte) (ok : Bool)
  | wait (t : Nat)
  deriving DecidableEq, Repr

/-- One latch strobe: the Register Select line and the nibble it latched (R64). -/
structure Strobe where
  rs  : Bool
  nib : Nibble
  deriving DecidableEq, Repr

/-- The block's state. The first twelve fields after the parameters are the record `S` of R21 under its own names. -/
structure State where
  /-- `cfg` (R8, R22): no request writes it. -/
  cfg : Cfg
  /-- `P` (R9): no request writes it. -/
  masks : Masks
  /-- `S.dfun` (R23). -/
  dfun : Option Byte
  /-- `S.dctl` (R24). -/
  dctl : Option Byte
  /-- `S.dmode` (R25). -/
  dmode : Option Byte
  /-- `S.bl` (R27). -/
  bl : Bool
  /-- `S.init_called` (R28). -/
  initCalled : Bool
  /-- `S.init_state` (R29). -/
  initState : InitState
  /-- `S.fault` (R30). -/
  fault : Option FaultCode
  /-- `S.trace` (R31), oldest first. -/
  trace : List Event
  /-- `S.txn` (R32). -/
  txn : Nat
  /-- `S.pc` (R33), in 32-bit words. -/
  pc : Nat
  /-- `S.sync_lost` (R35). -/
  syncLost : Bool
  /-- The request stream (R48): written by the host alone. -/
  words : List Word
  /-- The response words given so far (R74, R160), oldest first. The model's own field (log entry 11). -/
  responses : List Word
  /-- The oracle's answers Ω(0), Ω(1), … that the host has fixed (R84); later ones are the free value
  `Config.freeOutcome`. The model's own field (log entry 2). -/
  outcomes : List TxOutcome
  /-- The expander's output latch `L` (R44): external, never read by the block. -/
  latch : Byte
  /-- The latch strobes since construction (R64), oldest first: external, never read by the block (log entry 5). -/
  strobes : List Strobe
  deriving DecidableEq, Repr

/-- Why the block takes NO STEP (R83). All three are safe: the block does nothing where the model stops. -/
inductive Fault where
  /-- `S.fault` is set: a faulted block takes no step (R83, R139, R148). Raised by `step` before it fetches, and by every
  meaning. Safe (log entry 6). -/
  | halted (code : FaultCode)
  /-- The stream has no word at `S.pc`: the block is idle and the run finished (R73, R83). Raised by `step`. Safe (log entry 6). -/
  | idle
  /-- The stream lacks payload words of the request at `S.pc`: stuck until the host appends them (R73, R83, U12). Raised by
  `step`. Safe (log entry 6). -/
  | incomplete
  deriving DecidableEq, Repr

/-- What the model gives no meaning to. -/
inductive Refusal where
  /-- An instruction whose meaning is not written yet: raised by an arm of `exec` alone, and no arm does. Safe. -/
  | notModelled (mnemonic : String)
  /-- A configuration the block refuses at construction (R144, U14). Raised by `construct`, never by a step. Safe. -/
  | invalidConfig
  deriving DecidableEq, Repr

/-- The block right after construction (R41, R157) from a configuration and its masks: nothing submitted, nothing emitted. -/
def State.fresh (cfg : Cfg) (masks : Masks) : State :=
  { cfg := cfg
    masks := masks
    dfun := none
    dctl := none
    dmode := none
    bl := true
    initCalled := false
    initState := .unpowered
    fault := none
    trace := []
    txn := 0
    pc := 0
    syncLost := false
    words := []
    responses := []
    outcomes := []
    latch := Config.powerUpLatch
    strobes := [] }

/-- The machine right after reset (R41, R157): the values of the spec, with the configuration of log entry 1, the default masks
of R9 and the unspecified latch of R158 as a free value. -/
def State.reset : State := State.fresh Cfg.atReset Masks.default

end Sys2Proof.Machine
end

