-- ==== Sys2Proof/Machine/Operands.lean ====
section
/-! DEFINITION. The constants of R10 and R11, the mode argument (R19), and every operand computation of the spec: nibble
arguments (R76), the row clamp and the DDRAM address (R118), the CGRAM address (R131). -/

namespace Sys2Proof.Machine

/-! ## Timing constants (R10), in µs -/

def tPowerUp : Nat := 50000
def tExpReset : Nat := 1000000
def tInit1 : Nat := 4500
def tInit2 : Nat := 4500
def tInit3 : Nat := 150
def tEnHold : Nat := 1
def tExec : Nat := 50
def tClearHome : Nat := 2000

/-- The mode argument of `send` (R19). -/
inductive Mode where
  | cmd
  | data
  deriving DecidableEq, Repr

/-- The Register Select bit of a mode (R19, R90). -/
def modeBit (p : Masks) : Mode → Byte
  | .cmd => 0x00#8
  | .data => p.rs

/-- The nibble argument of the high half of `v` (R76, R90). -/
def highNibble (p : Masks) (v : Byte) (m : Mode) : Byte := (v &&& 0xF0#8) ||| modeBit p m

/-- The nibble argument of the low half of `v`: `v << 4` truncated to 8 bits (R76, R90). -/
def lowNibble (p : Masks) (v : Byte) (m : Mode) : Byte := ((v <<< 4) &&& 0xF0#8) ||| modeBit p m

/-- The backlight bit of an expander byte (R75, R87). -/
def backlightBit (p : Masks) (bl : Bool) : Byte := if bl then p.bl else 0x00#8

/-- The four-entry row-offset table (R11, R37); no entry at index 4 or above. -/
def rowOffset (r : Byte) : Option Byte :=
  if r = 0#8 then some 0x00#8
  else if r = 1#8 then some 0x40#8
  else if r = 2#8 then some 0x14#8
  else if r = 3#8 then some 0x54#8
  else none

/-- The row clamp of R118, with the source's comparison `row > rows`; `rows - 1` is taken mod 256. -/
def clampRow (rows row : Byte) : Byte := if row > rows then rows - 1#8 else row

/-- The DDRAM address of a column and a row base, mod 256 (R118). -/
def ddramAddress (col base : Byte) : Byte := col + base

/-- The CGRAM address of a slot: the slot masked to 3 bits, 8 bytes a slot (R47, R131). -/
def cgramAddress (slot : Byte) : Byte := (slot &&& 0x07#8) <<< 3

/-- A Bool result as `val` of a response (R74). -/
def boolVal (b : Bool) : BitVec 16 := if b then 1#16 else 0#16

/-- The response of a completed request: `st = 0b00`, bits 29:16 zero (R74). -/
def completedWord (val : BitVec 16) : Word := 0#2 ++ 0#14 ++ val

/-- The response of a faulted request: `st = 0b01`, the code in bits 7:0 (R74, R139). -/
def faultedWord (code : Byte) : Word := 1#2 ++ 0#14 ++ 0#8 ++ code

/-- The code of a model fault (R138). -/
def codeOf : FaultCode → Byte
  | .illegalRequest _ => 0x01#8
  | .notInitialized _ => 0x02#8
  | .unwrittenShadow _ => 0x03#8
  | .rowIndexOutOfRange _ => 0x04#8

/-- The numeric code of a sequencer state (R29). -/
def initStateCode : InitState → Nat
  | .unpowered => 0
  | .forceBusReset => 1
  | .forceDdram8to4First => 2
  | .forceDdram8to4Second => 3
  | .forceDdram8to4Third => 4
  | .setInterfaceWidth => 5
  | .functionSet => 6
  | .displayOn => 7
  | .cleared => 8
  | .entryModeSet => 9
  | .homed => 10
  | .ready => 11

end Sys2Proof.Machine
end

