-- ==== Sys2Proof/Machine/Flags.lean ====
section
/-! DEFINITION. The bits of the shadow registers (R23 to R25, R78), the function-set bits (R103) and the HD44780 command bytes
the block builds (R77). -/

namespace Sys2Proof.Machine

/-! ## Flag constants (R78) -/

def entryLeft : Byte := 0x02#8
def entryShift : Byte := 0x01#8
def displayOnBit : Byte := 0x04#8
def cursorOnBit : Byte := 0x02#8
def blinkOnBit : Byte := 0x01#8
def displayMove : Byte := 0x08#8
def moveRight : Byte := 0x04#8
def moveLeft : Byte := 0x00#8
def twoLine : Byte := 0x08#8
def dots5x10Bit : Byte := 0x04#8

/-- The 8-bit-mode nibble of the handshake, `0x3 << 4` (R78, R101). -/
def nibble8Bit : Byte := 0x30#8

/-- The 4-bit-mode nibble of the handshake, `0x2 << 4` (R78, R102). -/
def nibble4Bit : Byte := 0x20#8

/-- Set the bits of `m` in a shadow (R26, R119). -/
def setBits (m c : Byte) : Byte := c ||| m

/-- Clear the bits of `m` in a shadow (R26, R120). -/
def clearBits (m c : Byte) : Byte := c &&& ~~~m

/-- `fun_bits(cfg)` of R103: N iff more than one row, F iff 5x10 and exactly one row. -/
def funBits (cfg : Cfg) : Byte :=
  (if cfg.rows > 1#8 then twoLine else 0x00#8) |||
    (if cfg.charsize = .dots5x10 ∧ cfg.rows = 1#8 then dots5x10Bit else 0x00#8)

/-! ## Command bytes (R77) -/

def cmdClear : Byte := 0x01#8
def cmdHome : Byte := 0x02#8
def cmdEntryMode (dmode : Byte) : Byte := 0x04#8 ||| dmode
def cmdDisplayControl (dctl : Byte) : Byte := 0x08#8 ||| dctl
def cmdShift (flags : Byte) : Byte := 0x10#8 ||| flags
def cmdFunctionSet (dfun : Byte) : Byte := 0x20#8 ||| dfun
def cmdSetCgram (a : Byte) : Byte := 0x40#8 ||| a
def cmdSetDdram (a : Byte) : Byte := 0x80#8 ||| a

end Sys2Proof.Machine
end

