-- ==== Sys2Proof/Machine/Ops.lean ====
section
/-! DEFINITION. The named operations: the oracle (R84), one bus transaction with what it does to the expander latch (R85, R44,
R64), the primitives as plans (R87 to R90) and the one interpreter that runs a plan up to its first failed transaction (R17,
R92, R93), answering a request (R74, R83), taking a model fault (R139), and the checks every request passes (R83, R145). -/

namespace Sys2Proof.Machine

/-! ## State access -/

def State.emit (e : Event) (s : State) : State := { s with trace := s.trace ++ [e] }

def State.enter (q : InitState) (s : State) : State := { s with initState := q }

def State.setDfun (v : Byte) (s : State) : State := { s with dfun := some v }

def State.setDctl (v : Byte) (s : State) : State := { s with dctl := some v }

def State.setDmode (v : Byte) (s : State) : State := { s with dmode := some v }

def State.setBl (b : Bool) (s : State) : State := { s with bl := b }

/-! ## The transport (R84, R85) -/

/-- The oracle's answer Ω(n) (R84), with R44's choice for a failed transaction: what the host has fixed, and the free value
beyond that. -/
def State.omega (s : State) (n : Nat) : TxOutcome :=
  match s.outcomes[n]? with
  | some o => o
  | none => Config.freeOutcome n

/-- A transaction is ok when exactly one byte was accepted and the status is 0 (R54, R85). -/
def txOk (o : TxOutcome) : Bool := o.count == 1 && o.status == 0#8

/-- Whether the byte reaches the expander's pins: always when ok, else as the free choice says (R44). -/
def txLands (o : TxOutcome) : Bool := txOk o || o.landed

/-- The latch after a transaction of byte `b` (R44, R55). -/
def latchAfter (o : TxOutcome) (b latch : Byte) : Byte := if txLands o then b else latch

/-- The strobe, if any, of a change of the latch: Enable goes from 1 to 0, and the OLD nibble and Register Select are latched
(R64). -/
def strobeOf (p : Masks) (before after : Byte) : List Strobe :=
  if before &&& p.en ≠ 0#8 ∧ after &&& p.en = 0#8 then
    [{ rs := before &&& p.rs != 0#8, nib := before.extractLsb' 4 4 }]
  else []

/-- The `Tx` event of a transaction (R31, R85). -/
def txEvent (a : BusAddr) (b : Byte) (o : TxOutcome) : Event := .tx a b o.count o.status (txOk o)

/-- `I2CWrite(a, b)` of R85: the result, and the state with the `Tx` recorded, counted and, on failure, `sync_lost` set; outside
the block, the expander latch and the controller's strobes follow (R44, R64). -/
def i2cWrite (a : BusAddr) (b : Byte) (s : State) : Bool × State :=
  let o := s.omega s.txn
  (txOk o,
    { s with
      trace := s.trace ++ [txEvent a b o]
      txn := s.txn + 1
      syncLost := s.syncLost || !txOk o
      latch := latchAfter o b s.latch
      strobes := s.strobes ++ strobeOf s.masks s.latch (latchAfter o b s.latch) })

/-- `expanderWrite(d)` of R87: the backlight bit is packed from `S.bl` at this moment. -/
def expanderWrite (d : Byte) (s : State) : Bool × State :=
  i2cWrite s.cfg.addr (d ||| backlightBit s.masks s.bl) s

/-! ## Plans: the expansion of a request (R34) -/

/-- One item of a request's expansion. -/
inductive Act where
  /-- `BusBegin()` (R16, R98). -/
  | busBegin
  /-- `TRY(expanderWrite(d))` (R17, R87). -/
  | out (d : Byte)
  /-- `Wait(t)` (R86). -/
  | wait (t : Nat)
  /-- `S.init_state <- q` (R97). -/
  | enter (q : InitState)
  /-- `S.dfun <- some v` (R103). -/
  | setDfun (v : Byte)
  /-- `S.dctl <- some v` (R104). -/
  | setDctl (v : Byte)
  /-- `S.dmode <- some v` (R106). -/
  | setDmode (v : Byte)
  deriving DecidableEq, Repr

/-- A request's expansion, in order. -/
abbrev Plan := List Act

/-- One item. Only a bus transaction can fail. -/
def runAct (a : Act) (s : State) : Bool × State :=
  match a with
  | .busBegin => (true, s.emit .busBegin)
  | .out d => expanderWrite d s
  | .wait t => (true, s.emit (.wait t))
  | .enter q => (true, s.enter q)
  | .setDfun v => (true, s.setDfun v)
  | .setDctl v => (true, s.setDctl v)
  | .setDmode v => (true, s.setDmode v)

/-- A plan, in order, up to its first failure: no item after a failed transaction runs (R17, R92, R93). -/
def runPlan : Plan → State → Bool × State
  | [], s => (true, s)
  | a :: rest, s => if (runAct a s).1 then runPlan rest (runAct a s).2 else (false, (runAct a s).2)

/-- `pulseEnable(n)` of R88. -/
def pulseEnable (p : Masks) (n : Byte) : Plan :=
  [.out (n ||| p.en), .wait tEnHold, .out (n &&& ~~~p.en), .wait tExec]

/-- `write4bits(n)` of R89. -/
def write4bits (p : Masks) (n : Byte) : Plan := .out n :: pulseEnable p n

/-- `send(v, m)` of R90: high nibble first. -/
def send (p : Masks) (v : Byte) (m : Mode) : Plan :=
  write4bits p (highNibble p v m) ++ write4bits p (lowNibble p v m)

/-! ## Answering (R74, R83, R139) -/

/-- A request of `len` words completes with result `val`: `S.pc` advances and the response is given (R33, R74, R83). -/
def complete (len : Nat) (val : BitVec 16) (s : State) : State :=
  { s with pc := s.pc + len, responses := s.responses ++ [completedWord val] }

/-- Taking a model fault, `raise F(info)` of R139: `S.fault` is written, the faulting request is answered with its code, and
nothing else changes: no event, `S.pc` kept. There is no handler to enter and no return (R147, R148). -/
def raise (f : FaultCode) (s : State) : State :=
  { s with fault := some f, responses := s.responses ++ [faultedWord (codeOf f)] }

/-- A Bool request: its plan, then the answer 1 or 0 (R74, R92). -/
def boolRequest (len : Nat) (plan : Plan) (s : State) : State :=
  complete len (boolVal (runPlan plan s).1) (runPlan plan s).2

/-! ## The checks before a request (R83, R145) -/

/-- A faulted block takes no step (R83, R145 item 1). -/
def unlessHalted (s : State) (run : State → Host.Outcome State Fault Refusal) : Host.Outcome State Fault Refusal :=
  match s.fault with
  | some f => .fault (.halted f)
  | none => run s

/-- A request other than INIT: no step when faulted, `NotInitialized` while no INIT has begun (R83, R141, R145). -/
def unlessUninitialized (op : Byte) (s : State) (run : State → Host.Outcome State Fault Refusal) :
    Host.Outcome State Fault Refusal :=
  unlessHalted s fun s => if s.initCalled then run s else .next (raise (.notInitialized op) s)

/-- A Bool request of one plan, behind the checks (R83). -/
def planRequest (i : Instr) (plan : Plan) (s : State) : Host.Outcome State Fault Refusal :=
  unlessUninitialized (opcodeOf i) s fun s => .next (boolRequest (lengthOf i) plan s)

/-- A toggle of the display control shadow (R26): read it (fault when unwritten, R142), write the new value, send the command;
the new value is kept even if the send fails. -/
def toggleDctl (i : Instr) (f : Byte → Byte) (s : State) : Host.Outcome State Fault Refusal :=
  unlessUninitialized (opcodeOf i) s fun s =>
    match s.dctl with
    | none => .next (raise (.unwrittenShadow .dctl) s)
    | some c => .next (boolRequest (lengthOf i) (send s.masks (cmdDisplayControl (f c)) .cmd) (s.setDctl (f c)))

/-- A toggle of the entry mode shadow (R26, R142). -/
def toggleDmode (i : Instr) (f : Byte → Byte) (s : State) : Host.Outcome State Fault Refusal :=
  unlessUninitialized (opcodeOf i) s fun s =>
    match s.dmode with
    | none => .next (raise (.unwrittenShadow .dmode) s)
    | some m => .next (boolRequest (lengthOf i) (send s.masks (cmdEntryMode (f m)) .cmd) (s.setDmode (f m)))

/-- A byte sent as a command, and nothing else (R113): COMMAND, and the HD44780 command-byte rows (log entry 8). -/
def commandRequest (i : Instr) (value : Byte) (s : State) : Host.Outcome State Fault Refusal :=
  planRequest i (send s.masks value .cmd) s

end Sys2Proof.Machine
end

