-- ==== Sys2Proof/Machine/Backlight.lean ====
section
/-! DEFINITION. The backlight requests (44_backlight.md). -/

namespace Sys2Proof.Machine

/-- Set the flag first, then emit one expander byte with every other line low; the flag is kept even if the write fails (R132,
R133). -/
def backlightRequest (i : Instr) (b : Bool) (s : State) : Host.Outcome State Fault Refusal :=
  unlessUninitialized (opcodeOf i) s fun s => .next (boolRequest (lengthOf i) [.out 0x00#8] (s.setBl b))

/-- BACKLIGHT_ON (R132). -/
def execBacklightOn (s : State) : Host.Outcome State Fault Refusal := backlightRequest .backlightOn true s

/-- BACKLIGHT_OFF (R133). -/
def execBacklightOff (s : State) : Host.Outcome State Fault Refusal := backlightRequest .backlightOff false s

/-- GET_BACKLIGHT (R134): answers the flag and emits nothing. -/
def execGetBacklight (s : State) : Host.Outcome State Fault Refusal :=
  unlessUninitialized (opcodeOf .getBacklight) s fun s => .next (complete (lengthOf .getBacklight) (boolVal s.bl) s)

end Sys2Proof.Machine
end

