-- ==== Sys2Proof/Machine/Data.lean ====
section
/-! DEFINITION. The command and data requests (42_command_data.md): COMMAND, WRITE, PRINTSTR. -/

namespace Sys2Proof.Machine

/-- COMMAND (R113): any byte, passed through; no shadow is touched. -/
def execCommand (value : Byte) (s : State) : Host.Outcome State Fault Refusal :=
  commandRequest (.command value) value s

/-- WRITE (R114): answers the number of bytes written, 1 or 0. -/
def execWrite (value : Byte) (s : State) : Host.Outcome State Fault Refusal :=
  planRequest (.write value) (send s.masks value .data) s

/-- The loop of PRINTSTR (R115): one `send` a byte, stopping at the first that fails; `k` counts the bytes sent in full. -/
def printLoop (p : Masks) : List Byte → BitVec 16 → State → BitVec 16 × State
  | [], k, s => (k, s)
  | b :: bs, k, s =>
    if (runPlan (send p b .data) s).1 then printLoop p bs (k + 1#16) (runPlan (send p b .data) s).2
    else (k, (runPlan (send p b .data) s).2)

/-- PRINTSTR (R115): answers the count. -/
def execPrintstr (text : List Byte) (s : State) : Host.Outcome State Fault Refusal :=
  unlessUninitialized (opcodeOf (.printstr text)) s fun s =>
    let r := printLoop s.masks text 0#16 s
    .next (complete (lengthOf (.printstr text)) r.1 r.2)

end Sys2Proof.Machine
end

