-- ==== Sys2Proof/Machine/Display.lean ====
section
/-! DEFINITION. The display commands (43_display_commands.md): CLEAR, HOME, SET_CURSOR, the display-control and entry-mode
toggles, the display shifts, CREATE_CHAR. -/

namespace Sys2Proof.Machine

/-- CLEAR (R116). -/
def execClear (s : State) : Host.Outcome State Fault Refusal :=
  planRequest .clear (send s.masks cmdClear .cmd ++ [.wait tClearHome]) s

/-- HOME (R117). -/
def execHome (s : State) : Host.Outcome State Fault Refusal :=
  planRequest .home (send s.masks cmdHome .cmd ++ [.wait tClearHome]) s

/-- SET_CURSOR (R118): the fault of R143 comes before any event. -/
def execSetCursor (col row : Byte) (s : State) : Host.Outcome State Fault Refusal :=
  unlessUninitialized (opcodeOf (.setCursor col row)) s fun s =>
    match rowOffset (clampRow s.cfg.rows row) with
    | none => .next (raise (.rowIndexOutOfRange (clampRow s.cfg.rows row)) s)
    | some base =>
      .next (boolRequest (lengthOf (.setCursor col row)) (send s.masks (cmdSetDdram (ddramAddress col base)) .cmd) s)

/-- DISPLAY_ON (R119). -/
def execDisplayOn (s : State) : Host.Outcome State Fault Refusal := toggleDctl .displayOn (setBits displayOnBit) s

/-- DISPLAY_OFF (R120). -/
def execDisplayOff (s : State) : Host.Outcome State Fault Refusal := toggleDctl .displayOff (clearBits displayOnBit) s

/-- CURSOR_ON (R121). -/
def execCursorOn (s : State) : Host.Outcome State Fault Refusal := toggleDctl .cursorOn (setBits cursorOnBit) s

/-- CURSOR_OFF (R122). -/
def execCursorOff (s : State) : Host.Outcome State Fault Refusal := toggleDctl .cursorOff (clearBits cursorOnBit) s

/-- BLINK_ON (R123). -/
def execBlinkOn (s : State) : Host.Outcome State Fault Refusal := toggleDctl .blinkOn (setBits blinkOnBit) s

/-- BLINK_OFF (R124). -/
def execBlinkOff (s : State) : Host.Outcome State Fault Refusal := toggleDctl .blinkOff (clearBits blinkOnBit) s

/-- SCROLL_LEFT (R125). -/
def execScrollLeft (s : State) : Host.Outcome State Fault Refusal :=
  planRequest .scrollLeft (send s.masks (cmdShift (displayMove ||| moveLeft)) .cmd) s

/-- SCROLL_RIGHT (R126). -/
def execScrollRight (s : State) : Host.Outcome State Fault Refusal :=
  planRequest .scrollRight (send s.masks (cmdShift (displayMove ||| moveRight)) .cmd) s

/-- LEFT_TO_RIGHT (R127). -/
def execLeftToRight (s : State) : Host.Outcome State Fault Refusal := toggleDmode .leftToRight (setBits entryLeft) s

/-- RIGHT_TO_LEFT (R128). -/
def execRightToLeft (s : State) : Host.Outcome State Fault Refusal := toggleDmode .rightToLeft (clearBits entryLeft) s

/-- AUTOSCROLL_ON (R129). -/
def execAutoscrollOn (s : State) : Host.Outcome State Fault Refusal := toggleDmode .autoscrollOn (setBits entryShift) s

/-- AUTOSCROLL_OFF (R130). -/
def execAutoscrollOff (s : State) : Host.Outcome State Fault Refusal := toggleDmode .autoscrollOff (clearBits entryShift) s

/-- A list of bytes sent as data, one after the other. -/
def sendAll (p : Masks) : List Byte → Plan
  | [] => []
  | b :: bs => send p b .data ++ sendAll p bs

/-- CREATE_CHAR (R131): the CGRAM address of the slot, then the eight glyph rows. -/
def execCreateChar (slot : Byte) (glyph : Glyph) (s : State) : Host.Outcome State Fault Refusal :=
  planRequest (.createChar slot glyph)
    (send s.masks (cmdSetCgram (cgramAddress slot)) .cmd ++ sendAll s.masks glyph.rows) s

end Sys2Proof.Machine
end

