-- ==== Sys2Proof/Machine/Init.lean ====
section
/-! DEFINITION. INIT, the initialization sequencer (41_init.md). -/

namespace Sys2Proof.Machine

/-- INIT's expansion from `BusBegin` on (R97 to R107). -/
def initPlan (p : Masks) (cfg : Cfg) : Plan :=
  [.busBegin, .wait tPowerUp,
    .enter .forceBusReset, .out 0x00#8, .wait tExpReset] ++
  .enter .forceDdram8to4First :: write4bits p nibble8Bit ++ [.wait tInit1] ++
  .enter .forceDdram8to4Second :: write4bits p nibble8Bit ++ [.wait tInit2] ++
  .enter .forceDdram8to4Third :: write4bits p nibble8Bit ++ [.wait tInit3] ++
  .enter .setInterfaceWidth :: write4bits p nibble4Bit ++
  .enter .functionSet :: .setDfun (funBits cfg) :: send p (cmdFunctionSet (funBits cfg)) .cmd ++
  .enter .displayOn :: .setDctl displayOnBit :: send p (cmdDisplayControl displayOnBit) .cmd ++
  .enter .cleared :: send p cmdClear .cmd ++ [.wait tClearHome] ++
  .enter .entryModeSet :: .setDmode entryLeft :: send p (cmdEntryMode entryLeft) .cmd ++
  .enter .homed :: send p cmdHome .cmd ++ [.wait tClearHome]

/-- The state INIT's expansion starts from: `S.init_called` set, the sequencer back at its first state (R28, R97). -/
def beginInit (s : State) : State := { s with initCalled := true, initState := .unpowered }

/-- INIT's outcome: `Ready` and `sync_lost` cleared on success (R108), `Unpowered` on failure (R109). -/
def endInit (ok : Bool) (s : State) : State :=
  if ok then { s with initState := .ready, syncLost := false } else { s with initState := .unpowered }

/-- INIT (R97): the one request allowed before any INIT. -/
def execInit (s : State) : Host.Outcome State Fault Refusal :=
  unlessHalted s fun s =>
    let r := runPlan (initPlan s.masks s.cfg) (beginInit s)
    .next (complete (lengthOf .init) (boolVal r.1) (endInit r.1 r.2))

end Sys2Proof.Machine
end

