-- ==== Sys2Proof/Machine/Lcd.lean ====
section
/-! DEFINITION. The HD44780 command-byte rows of the opcode table (R77): as an instruction of the block, such a row is the
COMMAND that carries its byte (R81, R112, R113; DEDUCED, log entry 8): the byte goes out with RS = 0 and no shadow is touched.
What the controller then does with it is outside the block (R6, R137). -/

namespace Sys2Proof.Machine

/-- LCD_CLEAR (R77). -/
def execLcdClear (s : State) : Host.Outcome State Fault Refusal := commandRequest .lcdClear lcdClearByte s

/-- LCD_HOME (R77). -/
def execLcdHome (x : BitVec 1) (s : State) : Host.Outcome State Fault Refusal :=
  commandRequest (.lcdHome x) (lcdHomeByte x) s

/-- LCD_ENTRY_MODE (R77). -/
def execLcdEntryMode (id sh : BitVec 1) (s : State) : Host.Outcome State Fault Refusal :=
  commandRequest (.lcdEntryMode id sh) (lcdEntryModeByte id sh) s

/-- LCD_DISPLAY_CONTROL (R77). -/
def execLcdDisplayControl (d c b : BitVec 1) (s : State) : Host.Outcome State Fault Refusal :=
  commandRequest (.lcdDisplayControl d c b) (lcdDisplayControlByte d c b) s

/-- LCD_SHIFT (R77). -/
def execLcdShift (sc rl : BitVec 1) (x : BitVec 2) (s : State) : Host.Outcome State Fault Refusal :=
  commandRequest (.lcdShift sc rl x) (lcdShiftByte sc rl x) s

/-- LCD_FUNCTION_SET (R77). -/
def execLcdFunctionSet (dl n f : BitVec 1) (x : BitVec 2) (s : State) : Host.Outcome State Fault Refusal :=
  commandRequest (.lcdFunctionSet dl n f x) (lcdFunctionSetByte dl n f x) s

/-- LCD_SET_CGRAM (R77). -/
def execLcdSetCgram (addr : BitVec 6) (s : State) : Host.Outcome State Fault Refusal :=
  commandRequest (.lcdSetCgram addr) (lcdSetCgramByte addr) s

/-- LCD_SET_DDRAM (R77). -/
def execLcdSetDdram (addr : BitVec 7) (s : State) : Host.Outcome State Fault Refusal :=
  commandRequest (.lcdSetDdram addr) (lcdSetDdramByte addr) s

end Sys2Proof.Machine
end

