-- ==== Sys2Proof/Machine/Dispatch.lean ====
section
/-! DEFINITION. One arm for each instruction. -/

namespace Sys2Proof.Machine

def exec (i : Instr) (s : State) : Host.Outcome State Fault Refusal :=
  match i with
  | .init => Sys2Proof.Machine.execInit s
  | .clear => Sys2Proof.Machine.execClear s
  | .home => Sys2Proof.Machine.execHome s
  | .setCursor col row => Sys2Proof.Machine.execSetCursor col row s
  | .displayOn => Sys2Proof.Machine.execDisplayOn s
  | .displayOff => Sys2Proof.Machine.execDisplayOff s
  | .cursorOn => Sys2Proof.Machine.execCursorOn s
  | .cursorOff => Sys2Proof.Machine.execCursorOff s
  | .blinkOn => Sys2Proof.Machine.execBlinkOn s
  | .blinkOff => Sys2Proof.Machine.execBlinkOff s
  | .scrollLeft => Sys2Proof.Machine.execScrollLeft s
  | .scrollRight => Sys2Proof.Machine.execScrollRight s
  | .leftToRight => Sys2Proof.Machine.execLeftToRight s
  | .rightToLeft => Sys2Proof.Machine.execRightToLeft s
  | .autoscrollOn => Sys2Proof.Machine.execAutoscrollOn s
  | .autoscrollOff => Sys2Proof.Machine.execAutoscrollOff s
  | .createChar slot glyph => Sys2Proof.Machine.execCreateChar slot glyph s
  | .backlightOn => Sys2Proof.Machine.execBacklightOn s
  | .backlightOff => Sys2Proof.Machine.execBacklightOff s
  | .getBacklight => Sys2Proof.Machine.execGetBacklight s
  | .command value => Sys2Proof.Machine.execCommand value s
  | .write value => Sys2Proof.Machine.execWrite value s
  | .printstr text => Sys2Proof.Machine.execPrintstr text s
  | .lcdClear => Sys2Proof.Machine.execLcdClear s
  | .lcdHome x => Sys2Proof.Machine.execLcdHome x s
  | .lcdEntryMode id sh => Sys2Proof.Machine.execLcdEntryMode id sh s
  | .lcdDisplayControl d c b => Sys2Proof.Machine.execLcdDisplayControl d c b s
  | .lcdShift sc rl x => Sys2Proof.Machine.execLcdShift sc rl x s
  | .lcdFunctionSet dl n f x => Sys2Proof.Machine.execLcdFunctionSet dl n f x s
  | .lcdSetCgram addr => Sys2Proof.Machine.execLcdSetCgram addr s
  | .lcdSetDdram addr => Sys2Proof.Machine.execLcdSetDdram addr s

end Sys2Proof.Machine
end

