-- ==== Sys2Proof/Machine/Fetch.lean ====
section
/-! DEFINITION. Fetching the request at `S.pc` (R48, R73, R83), and the host's moves: construction (R144, R157), appending
words (R160), fixing transaction outcomes (R84, R160). -/

namespace Sys2Proof.Machine

/-- The request at `S.pc`. -/
def fetch (s : State) : Decoded := decode s.words s.pc

/-- What the block does with what it fetched (R83): no step on `NONE` and `INCOMPLETE`, `IllegalRequest` with the header's
position on `ILLEGAL` (R140), else the request's meaning. -/
def runDecoded (d : Decoded) (s : State) : Host.Outcome State Fault Refusal :=
  match d with
  | .none => .fault .idle
  | .incomplete => .fault .incomplete
  | .illegal _ => .next (raise (.illegalRequest s.pc) s)
  | .request i => exec i s

/-- Construct a block (R8, R9, R144, R157): refused when the address does not fit in 7 bits or the masks are illegal. -/
def construct (addr : Nat) (cols rows : Byte) (charsize : CharSize) (p : Masks) : Host.Outcome State Fault Refusal :=
  if addr ≤ 0x7F ∧ p.legal then
    .next (State.fresh { addr := BitVec.ofNat 7 addr, cols := cols, rows := rows, charsize := charsize } p)
  else .refused .invalidConfig

/-- The host appends words at the end of the stream (R160). -/
def submit (ws : List Word) (s : State) : State := { s with words := s.words ++ ws }

/-- The host fixes the outcomes of the next transactions it has not fixed yet (R84, R160). -/
def supply (os : List TxOutcome) (s : State) : State := { s with outcomes := s.outcomes ++ os }

/-- The words `new` put into a stream at position `pc`; a stream that ends before `pc` is filled with 0. -/
def overwriteWords : List Word → Nat → List Word → List Word
  | ws, 0, new => new ++ ws.drop new.length
  | [], pc + 1, new => 0#32 :: overwriteWords [] pc new
  | w :: ws, pc + 1, new => w :: overwriteWords ws pc new

/-- The stream words of an instruction of the opcode table: a request's own words, or the COMMAND that carries an HD44780 command
byte (log entry 8). -/
def fetchWords (nbits w : Nat) : List Word :=
  if nbits ≤ 8 then [headerF1 0x15#8 (BitVec.ofNat 8 (w % 2 ^ nbits))] else tableWords nbits w

end Sys2Proof.Machine
end

