-- ==== Sys2Proof/Machine/Step.lean ====
section
/-! DEFINITION. One step of the block (R83). -/

namespace Sys2Proof.Machine

/-- One step takes one request (R83, R145): a faulted block takes none. -/
def step (s : State) : Host.Outcome State Fault Refusal :=
  unlessHalted s fun s => runDecoded (fetch s) s

/-- `s` with the instruction whose table bits are `w` in the stream at `S.pc`, where `step` fetches (log entry 9). -/
def State.withFetchWord (s : State) (nbits w : Nat) : State :=
  { s with words := overwriteWords s.words s.pc (fetchWords nbits w) }

end Sys2Proof.Machine
end

