-- ==== Sys2Proof/Safety.lean ====
section
/-! DEFINITION. The terms in which claims about the block are stated: how a run stands (R83), what a trace shows (R31, R171),
what a request's expansion emits under any oracle (R34, R92), what the controller receives (R64, R65), and the invariant that
every step keeps. -/

namespace Sys2Proof.Machine

/-! ## How a run stands (R83) -/

/-- The end-of-run definition of R83. -/
inductive RunStatus where
  | running
  | finished
  | faulted
  | stuck
  deriving DecidableEq, Repr

def runStatus (s : State) : RunStatus :=
  match s.fault with
  | some _ => .faulted
  | none =>
    match fetch s with
    | .none => .finished
    | .incomplete => .stuck
    | _ => .running

/-! ## Traces (R31) -/

/-- A transaction that failed (R136). -/
def Event.isFailure : Event → Bool
  | .tx _ _ _ _ ok => !ok
  | _ => false

/-- The number of `Tx` events (R32, R171). -/
def txCount : List Event → Nat
  | [] => 0
  | .tx _ _ _ _ _ :: es => 1 + txCount es
  | _ :: es => txCount es

/-- The number of `Wait` events (R171). -/
def waitCount : List Event → Nat
  | [] => 0
  | .wait _ :: es => 1 + waitCount es
  | _ :: es => waitCount es

/-- The sum of the minimum waits, in µs (R171). -/
def waitSum : List Event → Nat
  | [] => 0
  | .wait t :: es => t + waitSum es
  | _ :: es => waitSum es

/-- The expander bytes in order. -/
def txBytes : List Event → List Byte
  | [] => []
  | .tx _ b _ _ _ :: es => b :: txBytes es
  | _ :: es => txBytes es

/-- The events are those of a run up to its first failed transaction: only the last can be a failure (R92, R93). -/
def stopsAtFailure : List Event → Bool
  | [] => true
  | [_] => true
  | e :: es => !e.isFailure && stopsAtFailure es

/-! ## Expansions (R34) -/

/-- One item of a request's expansion as the bus sees it: a whole expander byte, a wait, the bus start. -/
inductive Out where
  | busBegin
  | byte (b : Byte)
  | wait (t : Nat)
  deriving DecidableEq, Repr

/-- What an expansion emits to address `a` when the next transaction is number `n` and `omega` answers: its items in order, up to
and with the first transaction that is not ok (R34, R85, R92, R93). -/
def emission (a : BusAddr) (omega : Nat → TxOutcome) : Nat → List Out → List Event
  | _, [] => []
  | n, .busBegin :: xs => .busBegin :: emission a omega n xs
  | n, .wait t :: xs => .wait t :: emission a omega n xs
  | n, .byte b :: xs =>
    .tx a b (omega n).count (omega n).status (txOk (omega n)) ::
      (if txOk (omega n) then emission a omega (n + 1) xs else [])

/-- Whether every transaction of the expansion is ok. -/
def emissionOk (omega : Nat → TxOutcome) : Nat → List Out → Bool
  | _, [] => true
  | n, .byte _ :: xs => txOk (omega n) && emissionOk omega (n + 1) xs
  | n, _ :: xs => emissionOk omega n xs

/-- The next `k` transactions are all ok. -/
def nextOk (s : State) (k : Nat) : Prop := ∀ j < k, txOk (s.omega (s.txn + j)) = true

/-- One nibble argument `n` with the backlight bit `b`: set-up byte, Enable high, hold, Enable low, execute (R75, R88, R89). -/
def nibbleOuts (p : Masks) (b n : Byte) : List Out :=
  [.byte (n ||| b), .byte (n ||| p.en ||| b), .wait 1, .byte ((n &&& ~~~p.en) ||| b), .wait 50]

/-- One byte `v`, high nibble first, with the Register Select bits `r` and the backlight bit `b` (R90). -/
def byteOuts (p : Masks) (b v r : Byte) : List Out :=
  nibbleOuts p b ((v &&& 0xF0#8) ||| r) ++ nibbleOuts p b ((v <<< 4 &&& 0xF0#8) ||| r)

/-- The backlight bit the block packs in state `s` (R87). -/
def blBit (s : State) : Byte := if s.bl then s.masks.bl else 0#8

/-- A command byte from state `s`: RS = 0 (R90, R112). -/
def commandOuts (s : State) (v : Byte) : List Out := byteOuts s.masks (blBit s) v 0#8

/-- A data byte from state `s`: RS = 1 (R90, R112). -/
def dataOuts (s : State) (v : Byte) : List Out := byteOuts s.masks (blBit s) v s.masks.rs

/-- Data bytes one after the other. -/
def textOuts (s : State) : List Byte → List Out
  | [] => []
  | v :: vs => dataOuts s v ++ textOuts s vs

/-- From `s` to `t`, the expansion `xs` was emitted to `cfg.addr` under the oracle of `s`, a failure recorded in `sync_lost`
(R31, R32, R35, R85). -/
def Emitted (s t : State) (xs : List Out) : Prop :=
  t.trace = s.trace ++ emission s.cfg.addr s.omega s.txn xs ∧
  t.txn = s.txn + txCount (emission s.cfg.addr s.omega s.txn xs) ∧
  t.syncLost = (s.syncLost || !emissionOk s.omega s.txn xs)

/-- From `s` to `t`, one request of `len` words was answered as completed with `val` (R33, R74). -/
def Answered (s t : State) (len : Nat) (val : BitVec 16) : Prop :=
  t.pc = s.pc + len ∧ t.responses = s.responses ++ [BitVec.setWidth 32 val] ∧ t.fault = none

/-- The parameters and the host's side of the interface are as before (R22, R48, R160). -/
def SameParameters (s t : State) : Prop :=
  t.cfg = s.cfg ∧ t.masks = s.masks ∧ t.words = s.words ∧ t.outcomes = s.outcomes

/-- The shadows are as before. -/
def SameShadows (s t : State) : Prop := t.dfun = s.dfun ∧ t.dctl = s.dctl ∧ t.dmode = s.dmode

/-- The INIT status is as before. -/
def SameInit (s t : State) : Prop := t.initCalled = s.initCalled ∧ t.initState = s.initState

/-- A Bool request that emits `xs`, completes with 1 or 0, and writes no shadow, flag or INIT status (R39). -/
def Transmits (s t : State) (xs : List Out) : Prop :=
  Emitted s t xs ∧ Answered s t 1 (if emissionOk s.omega s.txn xs then 1#16 else 0#16) ∧
    SameParameters s t ∧ SameShadows s t ∧ SameInit s t ∧ t.bl = s.bl

/-- The state in which the spec lets a request other than INIT run: no fault, and an INIT has begun (R83, R141). -/
def Accepts (s : State) : Prop := s.fault = none ∧ s.initCalled = true

/-- The state after taking the fault `f` with the code `c` (R139). -/
def Faulted (s : State) (f : FaultCode) (c : Byte) : State :=
  { s with fault := some f, responses := s.responses ++ [0x40000000#32 ||| BitVec.setWidth 32 c] }

/-- `exec` answers a next state. -/
def Completes (i : Instr) (s : State) (P : State → Prop) : Prop := ∃ t, exec i s = .next t ∧ P t

/-- Before any INIT, the instruction faults with `NotInitialized` and its opcode (R141). -/
def FaultsBeforeInit (i : Instr) (op : Byte) : Prop :=
  ∀ s : State, s.fault = none → s.initCalled = false → exec i s = .next (Faulted s (.notInitialized op) 0x02#8)

/-- INIT's expansion from state `s` (R97 to R107, R111): the four handshake nibbles, then five command bytes. -/
def initOuts (s : State) : List Out :=
  [.busBegin, .wait 50000, .byte (0#8 ||| blBit s), .wait 1000000] ++
  nibbleOuts s.masks (blBit s) 0x30#8 ++ [.wait 4500] ++
  nibbleOuts s.masks (blBit s) 0x30#8 ++ [.wait 4500] ++
  nibbleOuts s.masks (blBit s) 0x30#8 ++ [.wait 150] ++
  nibbleOuts s.masks (blBit s) 0x20#8 ++
  commandOuts s (0x20#8 ||| funBits s.cfg) ++
  commandOuts s 0x0C#8 ++
  commandOuts s 0x01#8 ++ [.wait 2000] ++
  commandOuts s 0x06#8 ++
  commandOuts s 0x02#8 ++ [.wait 2000]

/-- A toggle of `dctl` by `f` (R26, R119 to R124): with the shadow written, the new value is kept and the command built from it
sent, whatever the transport does; with the shadow unwritten, `UnwrittenShadow` (R142). -/
def TogglesDctl (i : Instr) (f : Byte → Byte) : Prop :=
  ∀ s, Accepts s →
    (∀ c, s.dctl = some c → Completes i s fun t =>
      Emitted s t (commandOuts s (0x08#8 ||| f c)) ∧
      Answered s t 1 (if emissionOk s.omega s.txn (commandOuts s (0x08#8 ||| f c)) then 1#16 else 0#16) ∧
      t.dctl = some (f c) ∧ t.dfun = s.dfun ∧ t.dmode = s.dmode ∧ SameParameters s t ∧ SameInit s t ∧ t.bl = s.bl) ∧
    (s.dctl = none → exec i s = .next (Faulted s (.unwrittenShadow .dctl) 0x03#8))

/-- A toggle of `dmode` by `f` (R26, R127 to R130, R142). -/
def TogglesDmode (i : Instr) (f : Byte → Byte) : Prop :=
  ∀ s, Accepts s →
    (∀ m, s.dmode = some m → Completes i s fun t =>
      Emitted s t (commandOuts s (0x04#8 ||| f m)) ∧
      Answered s t 1 (if emissionOk s.omega s.txn (commandOuts s (0x04#8 ||| f m)) then 1#16 else 0#16) ∧
      t.dmode = some (f m) ∧ t.dfun = s.dfun ∧ t.dctl = s.dctl ∧ SameParameters s t ∧ SameInit s t ∧ t.bl = s.bl) ∧
    (s.dmode = none → exec i s = .next (Faulted s (.unwrittenShadow .dmode) 0x03#8))

/-- How many bytes of a string are sent in full before the first failure, six transactions a byte (R115). -/
def fullSends (omega : Nat → TxOutcome) : Nat → List Byte → Nat
  | _, [] => 0
  | n, _ :: bs =>
    if txOk (omega n) && txOk (omega (n + 1)) && txOk (omega (n + 2)) && txOk (omega (n + 3)) && txOk (omega (n + 4)) &&
      txOk (omega (n + 5)) then 1 + fullSends omega (n + 6) bs else 0

/-! ## Which requests write which field (R39) -/

def writesDctl : Instr → Bool
  | .init | .displayOn | .displayOff | .cursorOn | .cursorOff | .blinkOn | .blinkOff => true
  | _ => false

def writesDmode : Instr → Bool
  | .init | .leftToRight | .rightToLeft | .autoscrollOn | .autoscrollOff => true
  | _ => false

def writesBl : Instr → Bool
  | .backlightOn | .backlightOff => true
  | _ => false

/-! ## Illegal words (R72), said on the whole word -/

/-- The reserved bits of a header, by its opcode (R67). -/
def reservedMask (op : Byte) : Word :=
  if op = 0x04#8 then 0x000000FF#32
  else if op = 0x11#8 ∨ op = 0x15#8 ∨ op = 0x16#8 then 0x0000FFFF#32
  else if op = 0x17#8 then 0x00FF0000#32
  else 0x00FFFFFF#32

/-- Byte `j` of a payload: byte `j mod 4` of word `j div 4`, byte 0 in bits 31:24 (R70). -/
def payloadByte (payload : List Word) (j : Nat) : Byte :=
  ((payload[j / 4]?).getD 0#32).extractLsb' (24 - 8 * (j % 4)) 8

/-- The header is illegal: a reserved opcode, or a reserved bit set (R72). -/
def IllegalHeader (w : Word) : Prop :=
  w.toNat / 2 ^ 24 = 0 ∨ 0x18 ≤ w.toNat / 2 ^ 24 ∨ w &&& reservedMask (BitVec.ofNat 8 (w.toNat / 2 ^ 24)) ≠ 0#32

/-- A PRINTSTR with all its payload words and a padding byte that is not 0 (R70, R72). -/
def IllegalPadding (w : Word) (payload : List Word) : Prop :=
  w.toNat / 2 ^ 24 = 0x17 ∧ (w.toNat % 2 ^ 16 + 3) / 4 ≤ payload.length ∧
    ∃ j, w.toNat % 2 ^ 16 ≤ j ∧ j < 4 * ((w.toNat % 2 ^ 16 + 3) / 4) ∧ payloadByte payload j ≠ 0#8

/-! ## Timing (R171) -/

/-- The number of transactions of an instruction that completes with success. -/
def tableTx : Instr → Nat
  | .init => 43
  | .createChar _ _ => 54
  | .printstr text => 6 * text.length
  | .backlightOn | .backlightOff => 1
  | .getBacklight => 0
  | _ => 6

/-- The number of waits. -/
def tableWaits : Instr → Nat
  | .init => 35
  | .clear | .home => 5
  | .createChar _ _ => 36
  | .printstr text => 4 * text.length
  | .backlightOn | .backlightOff | .getBacklight => 0
  | _ => 4

/-- The sum of the minimum waits, in µs. -/
def tableWaitSum : Instr → Nat
  | .init => 1063864
  | .clear | .home => 2102
  | .createChar _ _ => 918
  | .printstr text => 102 * text.length
  | .backlightOn | .backlightOff | .getBacklight => 0
  | _ => 102

/-! ## What the controller receives (R64, R65) -/

/-- The bytes that pairs of strobes carry, high nibble first, with the pair's common RS (R65); `none` when the strobes are not
pairs of one RS each. -/
def inputPairs : List Strobe → Option (List (Bool × Byte))
  | [] => some []
  | [_] => none
  | h :: l :: rest => if h.rs = l.rs then (inputPairs rest).map ((h.rs, h.nib ++ l.nib) :: ·) else none

/-- The strobe of the nibble argument `n`: its Register Select bit and its data nibble (R64, R76). -/
def nibbleStrobe (p : Masks) (n : Byte) : Strobe := { rs := decide (n &&& p.rs ≠ 0#8), nib := n.extractLsb' 4 4 }

/-- The latch and the strobes after the events `es`, from those before (R44, R64): transaction number `n` puts its byte on the
pins when it is ok, or when it is not and the free choice of R44 says so; Enable going from 1 to 0 strobes the old nibble. -/
def replay (p : Masks) (omega : Nat → TxOutcome) : Nat → Byte × List Strobe → List Event → Byte × List Strobe
  | _, c, [] => c
  | n, (l, ks), .tx _ b _ _ ok :: es =>
    let l' := if ok || (omega n).landed then b else l
    replay p omega (n + 1)
      (l', if l &&& p.en ≠ 0#8 ∧ l' &&& p.en = 0#8 then ks ++ [⟨decide (l &&& p.rs ≠ 0#8), l.extractLsb' 4 4⟩] else ks) es
  | n, c, .busBegin :: es => replay p omega n c es
  | n, c, .wait _ :: es => replay p omega n c es

/-- The Enable line of the expander latch is low. -/
def enableLow (s : State) : Prop := s.latch &&& s.masks.en = 0#8

/-! ## Runs of instructions -/

/-- The instructions in order, each from the state the one before left; `none` at the first that answers no next state. -/
def execAll : List Instr → State → Option State
  | [], s => some s
  | i :: is, s =>
    match exec i s with
    | .next t => execAll is t
    | _ => none

/-- What the last backlight request of a list asked for, `b` if there is none (R94, R135). -/
def lastBacklight (b : Bool) : List Instr → Bool
  | [] => b
  | .backlightOn :: is => lastBacklight true is
  | .backlightOff :: is => lastBacklight false is
  | _ :: is => lastBacklight b is

/-! ## The invariant -/

/-- A wait is one of the constants of R10. -/
def legalWait (t : Nat) : Bool :=
  t == 50000 || t == 1000000 || t == 4500 || t == 150 || t == 1 || t == 50 || t == 2000

/-- What every event of a block's trace meets: its address is `cfg.addr` (R43), its result is that of R85, its RW bit is 0
(R75); a wait is one of R10's (R86). -/
def legalEvent (cfg : Cfg) (p : Masks) : Event → Bool
  | .busBegin => true
  | .tx a b c st ok => a == cfg.addr && ok == (c == 1 && st == 0#8) && b &&& p.rw == 0#8
  | .wait t => legalWait t

/-- What every response meets (R74): `st` is 0b00 or 0b01, bits 29:16 are 0, and a faulted one holds a code 1 to 4. -/
def legalResponse (r : Word) : Bool :=
  (r.extractLsb' 16 14 == 0#14) &&
    (r.extractLsb' 30 2 == 0#2 ||
      r.extractLsb' 30 2 == 1#2 && r.extractLsb' 0 16 != 0#16 && decide (r.extractLsb' 0 16 ≤ 4#16))

/-- The invariant of a block between requests. -/
structure State.Inv (s : State) : Prop where
  /-- R9 -/
  masks : s.masks.legal = true
  /-- R23 -/
  dfun : s.dfun = none ∨ s.dfun = some 0x00#8 ∨ s.dfun = some 0x04#8 ∨ s.dfun = some 0x08#8
  /-- R24 -/
  dctl : ∀ c, s.dctl = some c → c ≤ 0x07#8
  /-- R25 -/
  dmode : ∀ m, s.dmode = some m → m ≤ 0x03#8
  /-- INIT writes the shadows in this order, and a failure keeps what was written (R109). -/
  shadowOrder : (s.dmode ≠ none → s.dctl ≠ none) ∧ (s.dctl ≠ none → s.dfun ≠ none)
  /-- R29 -/
  initState : s.initState = .unpowered ∨ s.initState = .ready
  /-- R108 -/
  ready : s.initState = .ready → s.dmode ≠ none
  /-- R28, R141 -/
  uncalled : s.initCalled = false → s.trace = [] ∧ s.dfun = none ∧ s.initState = .unpowered
  /-- R32 -/
  txn : s.txn = txCount s.trace
  /-- R43, R75, R85, R86 -/
  events : ∀ e ∈ s.trace, legalEvent s.cfg s.masks e = true
  /-- R74 -/
  responses : ∀ r ∈ s.responses, legalResponse r = true
  /-- A fault is the answer to the last request (R139). -/
  fault : ∀ f, s.fault = some f → s.responses.getLast? = some (faultedWord (codeOf f))

end Sys2Proof.Machine
end

