-- ==== Sys2Proof/Certificates/Slice0/Obligations.lean ====
section
/-! DEFINITION. The statements for the provers. Each docstring names the rule or the section of spec/ it formalises. -/

open Sys2Proof Sys2Proof.Machine

/-! ## Encoding -/

/-- R68, 30_encoding.md section 2: words written out from the encoding tables decode to their requests. -/
def Obligations.DecodesSampleWords : Prop :=
  decode [0x01000000#32] 0 = .request .init ∧
  decode [0x04050100#32] 0 = .request (.setCursor 5#8 1#8) ∧
  decode [0x0E000000#32] 0 = .request .rightToLeft ∧
  decode [0#32, 0x11090000#32, 0x01020304#32, 0x05060708#32] 1 =
    .request (.createChar 9#8 ⟨1#8, 2#8, 3#8, 4#8, 5#8, 6#8, 7#8, 8#8⟩) ∧
  decode [0x13000000#32] 0 = .request .backlightOff ∧
  decode [0x15280000#32] 0 = .request (.command 0x28#8) ∧
  decode [0x17000002#32, 0x48690000#32] 0 = .request (.printstr [0x48#8, 0x69#8]) ∧
  decode [0x17000003#32, 0x41424301#32] 0 = .illegal .padding ∧
  decodeLcd 0x28#8 = some (.lcdFunctionSet 0#1 1#1 0#1 0#2) ∧
  decodeLcd 0xC3#8 = some (.lcdSetDdram 0x43#7)

/-- 30_encoding.md section 2: every well-formed request, encoded anywhere in a stream, decodes to itself, and takes as many words
as its length says. -/
def Obligations.EncodedRequestDecodesToItself : Prop :=
  ∀ (i : Instr) (before after : List Word), i.wellFormed = true → i.isRequest = true →
    decode (before ++ encode i ++ after) before.length = .request i ∧ (encode i).length = lengthOf i

/-- 30_encoding.md section 1: decoding a legal request's words and encoding the result gives back the same words. -/
def Obligations.DecodedRequestEncodesToItsWords : Prop :=
  ∀ (ws : List Word) (pc : Nat) (i : Instr), decode ws pc = .request i →
    encode i = (ws.drop pc).take (lengthOf i) ∧ i.wellFormed = true ∧ i.isRequest = true

/-- 30_encoding.md section 3 (the HD44780 command-byte table): a row and its byte determine each other, and only the byte 0x00
matches no row. -/
def Obligations.CommandByteRowsRoundTrip : Prop :=
  (∀ i b, lcdByte i = some b → decodeLcd b = some i) ∧
  (∀ i b, decodeLcd b = some i → lcdByte i = some b) ∧
  (∀ b, decodeLcd b = none ↔ b = 0#8)

/-- R72: what makes a request illegal, and that it then raises `IllegalRequest` before any event. -/
def Obligations.IllegalWordsRaiseIllegalRequest : Prop :=
  ∀ (s : State) (w : Word) (rest : List Word), s.fault = none → s.words.drop s.pc = w :: rest →
    ((IllegalHeader w ∨ IllegalPadding w rest) → step s = .next (Faulted s (.illegalRequest s.pc) 0x01#8)) ∧
    (¬(IllegalHeader w ∨ IllegalPadding w rest) → ∀ why, fetch s ≠ .illegal why)

/-- R71: a request's length is found from its header alone. -/
def Obligations.LengthIsFoundFromTheHeader : Prop :=
  ∀ (w : Word) (rest : List Word) (i : Instr), decode (w :: rest) 0 = .request i →
    lengthOf i = (if w.toNat / 2 ^ 24 = 0x11 then 3
      else if w.toNat / 2 ^ 24 = 0x17 then 1 + (w.toNat % 2 ^ 16 + 3) / 4 else 1)

/-- 30_encoding.md section 2 and 20_memory.md section 5: words the host appends never change a request that is already whole, nor
an illegal one. -/
def Obligations.AppendedWordsNeverChangeADecodedRequest : Prop :=
  ∀ (ws more : List Word) (pc : Nat),
    (∀ i, decode ws pc = .request i → decode (ws ++ more) pc = .request i) ∧
    (∀ why, decode ws pc = .illegal why → decode (ws ++ more) pc = .illegal why)

/-- R81: the pseudo-instructions. -/
def Obligations.PseudoInstructionsExpandToOneRequest : Prop :=
  (∀ a : Byte, expandPseudo (.setDdram a) = if a.toNat ≤ 0x7F then some (.command (0x80#8 ||| a)) else none) ∧
  (∀ a : Byte, expandPseudo (.setCgram a) = if a.toNat ≤ 0x3F then some (.command (0x40#8 ||| a)) else none) ∧
  (∀ c : Byte, expandPseudo (.putc c) = some (.write c)) ∧
  (∀ (x : Pseudo) (i : Instr) (s t : State), expandPseudo x = some i → exec i s = .next t → SameShadows s t)

/-! ## The step -/

/-- 40_core_primitives.md section 1: a step of a block without a fault whose stream holds a request at `S.pc` is that request's
meaning, which includes the advance of `S.pc` and the response. -/
def Obligations.StepRunsTheDecodedRequest : Prop :=
  ∀ (s : State) (i : Instr), s.fault = none → decode s.words s.pc = .request i → step s = exec i s

/-- 40_core_primitives.md section 1: a step exists exactly while the run is neither finished, faulted nor stuck; what the step
function answers otherwise names which. -/
def Obligations.StepExistsExactlyWhileRunning : Prop :=
  ∀ s : State,
    (runStatus s = .running → ∃ t, step s = .next t) ∧
    (runStatus s = .finished → step s = .fault .idle) ∧
    (runStatus s = .stuck → step s = .fault .incomplete) ∧
    (runStatus s = .faulted → ∃ f, s.fault = some f ∧ step s = .fault (.halted f))

/-- R145: the order of the checks. -/
def Obligations.ChecksComeInOrder : Prop :=
  (∀ s f, s.fault = some f → step s = .fault (.halted f)) ∧
  (∀ s, s.fault = none → fetch s = .none → step s = .fault .idle) ∧
  (∀ s, s.fault = none → fetch s = .incomplete → step s = .fault .incomplete) ∧
  (∀ s why, s.fault = none → fetch s = .illegal why → step s = .next (Faulted s (.illegalRequest s.pc) 0x01#8)) ∧
  (∀ s i, s.fault = none → fetch s = .request i → i ≠ .init → s.initCalled = false →
    step s = .next (Faulted s (.notInitialized (opcodeOf i)) 0x02#8)) ∧
  (∀ s i t f, s.fault = none → fetch s = .request i → (i = .init ∨ s.initCalled = true) → step s = .next t →
    t.fault = some f →
      ((f = .unwrittenShadow .dctl ∧ writesDctl i = true ∧ i ≠ .init) ∨
       (f = .unwrittenShadow .dmode ∧ writesDmode i = true ∧ i ≠ .init) ∨
       (∃ r col row, f = .rowIndexOutOfRange r ∧ i = .setCursor col row)) ∧ t.trace = s.trace)

/-- 40_core_primitives.md section 1: whether the block has a step never depends on the oracle; nor does the reason it has none. -/
def Obligations.OutcomesNeverDecideWhetherThereIsAStep : Prop :=
  ∀ (s : State) (os : List TxOutcome),
    (∀ t, step s = .next t → ∃ u, step { s with outcomes := os } = .next u) ∧
    (∀ f, step s = .fault f → step { s with outcomes := os } = .fault f)

/-! ## Primitives -/

/-- 40_core_primitives.md sections 2 and 3: one transaction. Whatever the oracle answers, exactly one `Tx` is recorded and counted, to `cfg.addr`, with the
backlight bit of `S.bl`; the result is ok iff one byte was accepted with status 0, and a failure sets `sync_lost`. -/
def Obligations.ExpanderWriteIsOneTransaction : Prop :=
  ∀ (s : State) (d : Byte),
    let b := d ||| (if s.bl then s.masks.bl else 0#8)
    let o := s.omega s.txn
    let ok := o.count == 1 && o.status == 0#8
    (expanderWrite d s).1 = ok ∧
    (∃ latch strobes, (expanderWrite d s).2 =
      { s with trace := s.trace ++ [.tx s.cfg.addr b o.count o.status ok], txn := s.txn + 1,
               syncLost := s.syncLost || !ok, latch := latch, strobes := strobes }) ∧
    (∀ a c, (i2cWrite a c s).1 = ok ∧ (i2cWrite a c s).2.trace = s.trace ++ [.tx a c o.count o.status ok])

/-- R88, R89: the nibble latch step emits set-up byte, Enable-high byte, hold, Enable-low byte, execute wait, cut at the first
failure; the set-up and the Enable-low byte are equal when the argument has its Enable bit 0. -/
def Obligations.NibbleStepEmitsSetUpAndPulse : Prop :=
  ∀ (s : State) (n : Byte),
    let pulse := [Out.byte (n ||| s.masks.en ||| blBit s), .wait 1, .byte ((n &&& ~~~s.masks.en) ||| blBit s), .wait 50]
    ((runPlan (pulseEnable s.masks n) s).1 = emissionOk s.omega s.txn pulse ∧
      Emitted s (runPlan (pulseEnable s.masks n) s).2 pulse) ∧
    ((runPlan (write4bits s.masks n) s).1 = emissionOk s.omega s.txn (.byte (n ||| blBit s) :: pulse) ∧
      Emitted s (runPlan (write4bits s.masks n) s).2 (.byte (n ||| blBit s) :: pulse)) ∧
    (n &&& s.masks.en = 0#8 → (n &&& ~~~s.masks.en) ||| blBit s = n ||| blBit s)

/-- R90: a byte goes out as two nibbles, high nibble first, cut at the first failure; nothing but the trace, its count and
`sync_lost` of the block changes. -/
def Obligations.SendIsTwoNibblesHighFirst : Prop :=
  ∀ (s : State) (v : Byte) (m : Mode),
    let r := if m = .data then s.masks.rs else 0#8
    let t := (runPlan (send s.masks v m) s).2
    let xs := nibbleOuts s.masks (blBit s) ((v &&& 0xF0#8) ||| r) ++ nibbleOuts s.masks (blBit s) ((v <<< 4 &&& 0xF0#8) ||| r)
    (runPlan (send s.masks v m) s).1 = emissionOk s.omega s.txn xs ∧ Emitted s t xs ∧
    SameParameters s t ∧ SameShadows s t ∧ SameInit s t ∧ t.bl = s.bl ∧ t.pc = s.pc ∧ t.fault = s.fault ∧
      t.responses = s.responses

/-- 40_core_primitives.md section 5 (the derived properties of `send`): with legal masks and no failure, 6 transactions and 4 waits;
the high nibble in the first three bytes and the low one in the last three; every byte carries the same RS and BL bits and RW 0. -/
def Obligations.SendBytesCarryTheirControlBits : Prop :=
  ∀ (s : State) (v : Byte) (m : Mode), s.masks.legal = true → nextOk s 6 →
    ∃ new, (runPlan (send s.masks v m) s).2.trace = s.trace ++ new ∧ txCount new = 6 ∧ waitCount new = 4 ∧
      (txBytes new).map (fun b => b.extractLsb' 4 4) =
        List.replicate 3 (v.extractLsb' 4 4) ++ List.replicate 3 (v.extractLsb' 0 4) ∧
      ∀ b ∈ txBytes new,
        ((b &&& s.masks.rs ≠ 0#8) ↔ m = .data) ∧ ((b &&& s.masks.bl ≠ 0#8) ↔ s.bl = true) ∧ b &&& s.masks.rw = 0#8

/-- R93: after a failed transaction nothing more of the request is emitted, so in what any instruction emits only the last event
can be a failed transaction. -/
def Obligations.NothingIsEmittedAfterAFailure : Prop :=
  ∀ (i : Instr) (s t : State), exec i s = .next t →
    ∃ new, t.trace = s.trace ++ new ∧ stopsAtFailure new = true

/-! ## The requests -/

/-- R108, R109: INIT, with the expansion of 41_init.md sections 1 and 2, from every state without a fault and under every oracle.
The shadows are written iff the failure, if any, came at or after their steps: the 14th, 20th and 32nd transaction. -/
def Obligations.InitRunsItsSequence : Prop :=
  decode [0x01000000#32] 0 = .request .init ∧
  ∀ s : State, s.fault = none →
    Completes .init s fun t =>
      t.trace = s.trace ++ emission s.cfg.addr s.omega s.txn (initOuts s) ∧
      t.txn = s.txn + txCount (emission s.cfg.addr s.omega s.txn (initOuts s)) ∧
      Answered s t 1 (if emissionOk s.omega s.txn (initOuts s) then 1#16 else 0#16) ∧
      SameParameters s t ∧ t.bl = s.bl ∧ t.initCalled = true ∧
      (emissionOk s.omega s.txn (initOuts s) = true →
        t.initState = .ready ∧ t.syncLost = false ∧ t.dfun = some (funBits s.cfg) ∧ t.dctl = some 0x04#8 ∧
          t.dmode = some 0x02#8) ∧
      (emissionOk s.omega s.txn (initOuts s) = false → t.initState = .unpowered ∧ t.syncLost = true) ∧
      (nextOk s 13 → t.dfun = some (funBits s.cfg)) ∧ (¬nextOk s 13 → t.dfun = s.dfun) ∧
      (nextOk s 19 → t.dctl = some 0x04#8) ∧ (¬nextOk s 19 → t.dctl = s.dctl) ∧
      (nextOk s 31 → t.dmode = some 0x02#8) ∧ (¬nextOk s 31 → t.dmode = s.dmode)

/-- 41_init.md section 4: the 43 bytes, 79 events and minimum waits of a successful INIT with the default masks, two rows and the
backlight flag set. -/
def Obligations.SuccessfulInitEmitsTheListedBytes : Prop :=
  ∀ s : State, s.fault = none → s.masks = Masks.default → s.cfg.rows = 2#8 → s.bl = true → nextOk s 43 →
    ∃ t new, exec .init s = .next t ∧ t.trace = s.trace ++ new ∧ new.length = 79 ∧ waitSum new = 1063864 ∧
      txBytes new =
        [0x08#8, 0x38#8, 0x3C#8, 0x38#8, 0x38#8, 0x3C#8, 0x38#8, 0x38#8, 0x3C#8, 0x38#8, 0x28#8, 0x2C#8, 0x28#8] ++
        [0x28#8, 0x2C#8, 0x28#8, 0x88#8, 0x8C#8, 0x88#8] ++ [0x08#8, 0x0C#8, 0x08#8, 0xC8#8, 0xCC#8, 0xC8#8] ++
        [0x08#8, 0x0C#8, 0x08#8, 0x18#8, 0x1C#8, 0x18#8] ++ [0x08#8, 0x0C#8, 0x08#8, 0x68#8, 0x6C#8, 0x68#8] ++
        [0x08#8, 0x0C#8, 0x08#8, 0x28#8, 0x2C#8, 0x28#8]

/-- 41_init.md section 2 (function set): the function-set bits by configuration. -/
def Obligations.FunctionSetBitsFollowTheConfiguration : Prop :=
  (∀ cfg : Cfg, 2 ≤ cfg.rows.toNat → funBits cfg = 0x08#8 ∧ cmdFunctionSet (funBits cfg) = 0x28#8) ∧
  (∀ cfg : Cfg, cfg.rows.toNat = 1 → cfg.charsize = .dots5x10 →
    funBits cfg = 0x04#8 ∧ cmdFunctionSet (funBits cfg) = 0x24#8) ∧
  (∀ cfg : Cfg, cfg.rows.toNat = 1 → cfg.charsize = .dots5x8 →
    funBits cfg = 0x00#8 ∧ cmdFunctionSet (funBits cfg) = 0x20#8) ∧
  (∀ cfg : Cfg, cfg.rows.toNat = 0 → funBits cfg = 0x00#8 ∧ cmdFunctionSet (funBits cfg) = 0x20#8)

/-- R116, R117: CLEAR and HOME. -/
def Obligations.ClearAndHomeSendAndSettle : Prop :=
  decode [0x02000000#32] 0 = .request .clear ∧ decode [0x03000000#32] 0 = .request .home ∧
  FaultsBeforeInit .clear 0x02#8 ∧ FaultsBeforeInit .home 0x03#8 ∧
  ∀ s, Accepts s →
    Completes .clear s (fun t => Transmits s t (commandOuts s 0x01#8 ++ [.wait 2000])) ∧
    Completes .home s (fun t => Transmits s t (commandOuts s 0x02#8 ++ [.wait 2000]))

/-- R118: SET_CURSOR, in numbers: the clamp compares `row > rows`, `rows - 1` and the address are taken mod 256, an index of 4 or
more faults before any event. -/
def Obligations.SetCursorSendsTheRowAddress : Prop :=
  (∀ col row : Byte, decode [0x04000000#32 ||| (BitVec.setWidth 32 col <<< 16) ||| (BitVec.setWidth 32 row <<< 8)] 0 =
    .request (.setCursor col row)) ∧
  (∀ col row, FaultsBeforeInit (.setCursor col row) 0x04#8) ∧
  ∀ (s : State) (col row : Byte), Accepts s →
    let r := if row.toNat > s.cfg.rows.toNat then (s.cfg.rows.toNat + 255) % 256 else row.toNat
    (∀ base, [0x00, 0x40, 0x14, 0x54][r]? = some base →
      Completes (.setCursor col row) s (fun t =>
        Transmits s t (commandOuts s (0x80#8 ||| BitVec.ofNat 8 ((col.toNat + base) % 256))))) ∧
    (4 ≤ r → exec (.setCursor col row) s = .next (Faulted s (.rowIndexOutOfRange (BitVec.ofNat 8 r)) 0x04#8))

/-- R143: the inputs for which SET_CURSOR raises `RowIndexOutOfRange`. -/
def Obligations.RowFaultInputsAreTheListedOnes : Prop :=
  ∀ (s t : State) (col row : Byte), Accepts s → exec (.setCursor col row) s = .next t →
    ((∃ r, t.fault = some (.rowIndexOutOfRange r)) ↔
      (row.toNat = 4 ∧ s.cfg.rows.toNat = 4) ∨
      (5 ≤ s.cfg.rows.toNat ∧ 4 ≤ row.toNat ∧ row.toNat ≤ s.cfg.rows.toNat) ∨
      (6 ≤ s.cfg.rows.toNat ∧ s.cfg.rows.toNat < row.toNat) ∨
      (s.cfg.rows.toNat = 5 ∧ 5 < row.toNat) ∨
      (s.cfg.rows.toNat = 0 ∧ 1 ≤ row.toNat)) ∧
    (t.fault ≠ none → t.trace = s.trace)

/-- R119 to R124: the six display-control requests, each changing its one bit of `dctl`. -/
def Obligations.DisplayControlRequestsChangeOneBit : Prop :=
  (TogglesDctl .displayOn (· ||| 0x04#8) ∧ TogglesDctl .displayOff (· &&& 0xFB#8) ∧
    TogglesDctl .cursorOn (· ||| 0x02#8) ∧ TogglesDctl .cursorOff (· &&& 0xFD#8) ∧
    TogglesDctl .blinkOn (· ||| 0x01#8) ∧ TogglesDctl .blinkOff (· &&& 0xFE#8)) ∧
  (FaultsBeforeInit .displayOn 0x05#8 ∧ FaultsBeforeInit .displayOff 0x06#8 ∧ FaultsBeforeInit .cursorOn 0x07#8 ∧
    FaultsBeforeInit .cursorOff 0x08#8 ∧ FaultsBeforeInit .blinkOn 0x09#8 ∧ FaultsBeforeInit .blinkOff 0x0A#8) ∧
  decode [0x05000000#32] 0 = .request .displayOn ∧ decode [0x06000000#32] 0 = .request .displayOff ∧
  decode [0x07000000#32] 0 = .request .cursorOn ∧ decode [0x08000000#32] 0 = .request .cursorOff ∧
  decode [0x09000000#32] 0 = .request .blinkOn ∧ decode [0x0A000000#32] 0 = .request .blinkOff

/-- R125, R126: the display shifts. -/
def Obligations.ScrollRequestsSendTheShiftCommands : Prop :=
  decode [0x0B000000#32] 0 = .request .scrollLeft ∧ decode [0x0C000000#32] 0 = .request .scrollRight ∧
  FaultsBeforeInit .scrollLeft 0x0B#8 ∧ FaultsBeforeInit .scrollRight 0x0C#8 ∧
  ∀ s, Accepts s →
    Completes .scrollLeft s (fun t => Transmits s t (commandOuts s 0x18#8)) ∧
    Completes .scrollRight s (fun t => Transmits s t (commandOuts s 0x1C#8))

/-- R127 to R130: the four entry-mode requests, each changing its one bit of `dmode`. -/
def Obligations.EntryModeRequestsChangeOneBit : Prop :=
  (TogglesDmode .leftToRight (· ||| 0x02#8) ∧ TogglesDmode .rightToLeft (· &&& 0xFD#8) ∧
    TogglesDmode .autoscrollOn (· ||| 0x01#8) ∧ TogglesDmode .autoscrollOff (· &&& 0xFE#8)) ∧
  (FaultsBeforeInit .leftToRight 0x0D#8 ∧ FaultsBeforeInit .rightToLeft 0x0E#8 ∧
    FaultsBeforeInit .autoscrollOn 0x0F#8 ∧ FaultsBeforeInit .autoscrollOff 0x10#8) ∧
  decode [0x0D000000#32] 0 = .request .leftToRight ∧ decode [0x0E000000#32] 0 = .request .rightToLeft ∧
  decode [0x0F000000#32] 0 = .request .autoscrollOn ∧ decode [0x10000000#32] 0 = .request .autoscrollOff

/-- R131: CREATE_CHAR: the slot's CGRAM address `8 * (slot mod 8)` as a command, then the eight glyph rows as data. -/
def Obligations.CreateCharSendsAddressThenGlyph : Prop :=
  (∀ slot : Byte, decode [0x11000000#32 ||| (BitVec.setWidth 32 slot <<< 16), 0x1F111111#32, 0x1111111F#32] 0 =
    .request (.createChar slot ⟨0x1F#8, 0x11#8, 0x11#8, 0x11#8, 0x11#8, 0x11#8, 0x11#8, 0x1F#8⟩)) ∧
  (∀ slot g, FaultsBeforeInit (.createChar slot g) 0x11#8) ∧
  ∀ (s : State) (slot : Byte) (g : Glyph), Accepts s →
    let xs := commandOuts s (0x40#8 ||| BitVec.ofNat 8 (8 * (slot.toNat % 8))) ++ dataOuts s g.g0 ++ dataOuts s g.g1 ++
      dataOuts s g.g2 ++ dataOuts s g.g3 ++ dataOuts s g.g4 ++ dataOuts s g.g5 ++ dataOuts s g.g6 ++ dataOuts s g.g7
    Completes (.createChar slot g) s fun t =>
      Emitted s t xs ∧ Answered s t 3 (if emissionOk s.omega s.txn xs then 1#16 else 0#16) ∧
      SameParameters s t ∧ SameShadows s t ∧ SameInit s t ∧ t.bl = s.bl

/-- R113, R114: COMMAND and WRITE pass every byte through, with RS = 0 and RS = 1. -/
def Obligations.CommandAndWriteSendTheirByte : Prop :=
  (∀ v : Byte, decode [0x15000000#32 ||| (BitVec.setWidth 32 v <<< 16)] 0 = .request (.command v)) ∧
  (∀ v : Byte, decode [0x16000000#32 ||| (BitVec.setWidth 32 v <<< 16)] 0 = .request (.write v)) ∧
  (∀ v, FaultsBeforeInit (.command v) 0x15#8) ∧ (∀ v, FaultsBeforeInit (.write v) 0x16#8) ∧
  ∀ (s : State) (v : Byte), Accepts s →
    Completes (.command v) s (fun t => Transmits s t (commandOuts s v)) ∧
    Completes (.write v) s (fun t => Transmits s t (dataOuts s v))

/-- 42_command_data.md (PRINTSTR): it sends its bytes as data, stops at the first failure and answers how many were sent in full. -/
def Obligations.PrintstrSendsAndCountsItsBytes : Prop :=
  decode [0x17000002#32, 0x48690000#32] 0 = .request (.printstr [0x48#8, 0x69#8]) ∧
  (∀ text, FaultsBeforeInit (.printstr text) 0x17#8) ∧
  ∀ (s : State) (text : List Byte), Accepts s → text.length ≤ 65535 →
    fullSends s.omega s.txn text ≤ text.length ∧
    Completes (.printstr text) s fun t =>
      Emitted s t (textOuts s text) ∧
      Answered s t (1 + (text.length + 3) / 4) (BitVec.ofNat 16 (fullSends s.omega s.txn text)) ∧
      SameParameters s t ∧ SameShadows s t ∧ SameInit s t ∧ t.bl = s.bl

/-- R132, and 44_backlight.md for its counterpart: the backlight requests set the flag, keep it whatever the transport does, and
emit one byte that carries it and nothing else, which strobes nothing when Enable was low. -/
def Obligations.BacklightRequestsSetAndSendTheFlag : Prop :=
  decode [0x12000000#32] 0 = .request .backlightOn ∧ decode [0x13000000#32] 0 = .request .backlightOff ∧
  FaultsBeforeInit .backlightOn 0x12#8 ∧ FaultsBeforeInit .backlightOff 0x13#8 ∧
  ∀ s, Accepts s → ∀ b : Bool,
    let xs := [Out.byte (if b then s.masks.bl else 0#8)]
    Completes (if b then .backlightOn else .backlightOff) s fun t =>
      t.bl = b ∧ Emitted s t xs ∧ Answered s t 1 (if emissionOk s.omega s.txn xs then 1#16 else 0#16) ∧
      SameParameters s t ∧ SameShadows s t ∧ SameInit s t ∧ (enableLow s → t.strobes = s.strobes)

/-- R134: GET_BACKLIGHT answers the flag and changes nothing but `S.pc` and the responses. -/
def Obligations.GetBacklightAnswersTheFlag : Prop :=
  decode [0x14000000#32] 0 = .request .getBacklight ∧ FaultsBeforeInit .getBacklight 0x14#8 ∧
  ∀ s, Accepts s → exec .getBacklight s =
    .next { s with pc := s.pc + 1, responses := s.responses ++ [if s.bl then 0x00000001#32 else 0x00000000#32] }

/-- 30_encoding.md sections 3 and 4 and 42_command_data.md: an HD44780 command-byte row, as an instruction of the block, is the
COMMAND of its byte. That these rows are run so is the model's reading (log entry 8, DEDUCED). -/
def Obligations.CommandByteRowsAreSentAsCommands : Prop :=
  ∀ (i : Instr) (b : Byte), lcdByte i = some b →
    (∀ s, exec i s = exec (.command b) s) ∧
    ∀ s, Accepts s → Completes i s (fun t => Transmits s t (commandOuts s b))

/-! ## Faults -/

/-- R141: every request but INIT faults before INIT has been submitted; once it has, even a failed one, INIT counts as called. -/
def Obligations.RequestsBeforeInitAreNotInitialized : Prop :=
  (∀ i, i ≠ .init → FaultsBeforeInit i (opcodeOf i)) ∧
  (∀ s t, exec .init s = .next t → t.initCalled = true ∧ t.fault = none) ∧
  (∀ s i t op, Accepts s → exec i s = .next t → t.fault ≠ some (.notInitialized op))

/-- R139: taking a fault writes `S.fault`, answers with `st = 0b01` and the code, and changes nothing else; then no step and no
instruction, not even INIT, does anything. -/
def Obligations.TakingAFaultRecordsAndHalts : Prop :=
  ∀ (s : State) (f : FaultCode),
    raise f s = { s with fault := some f, responses := s.responses ++ [0x40000000#32 ||| BitVec.setWidth 32 (codeOf f)] } ∧
    step (raise f s) = .fault (.halted f) ∧ (∀ i, exec i (raise f s) = .fault (.halted f))

/-- 60_exceptions.md section 3 (precision): a faulting instruction leaves the state before it, but for `S.fault` and the fault
response. -/
def Obligations.FaultsArePrecise : Prop :=
  ∀ (i : Instr) (s t : State) (f : FaultCode), exec i s = .next t → t.fault = some f → t = Faulted s f (codeOf f)

/-- 60_exceptions.md section 3 (no return): a faulted block stays faulted: no number of steps gives a next state. -/
def Obligations.AFaultedBlockNeverStepsAgain : Prop :=
  ∀ (s : State) (f : FaultCode) (k : Nat), s.fault = some f → core.run (k + 1) s = .fault (.halted f)

/-! ## Frames -/

/-- R22: no step writes the configuration; nor the masks, the request stream or the oracle. -/
def Obligations.StepNeverWritesParametersOrStream : Prop :=
  ∀ s t : State, step s = .next t → SameParameters s t

/-- 10_state.md section 4 (trace, transaction count): a step only appends to the trace, and counts each `Tx` it appends. -/
def Obligations.TraceOnlyGrowsAndTxIsCounted : Prop :=
  ∀ s t : State, step s = .next t → ∃ new, t.trace = s.trace ++ new ∧ t.txn = s.txn + txCount new

/-- 10_state.md section 4 (request-stream position): an instruction that completes advances `S.pc` by its length, a faulting one
leaves it. -/
def Obligations.PositionAdvancesByTheLength : Prop :=
  ∀ (i : Instr) (s t : State), exec i s = .next t →
    (t.fault = none → t.pc = s.pc + lengthOf i) ∧ (t.fault ≠ none → t.pc = s.pc)

/-- 30_encoding.md section 2 (response word): a step answers exactly one response word, of a legal form, and it is a fault
response iff the block is now faulted. -/
def Obligations.EachStepAnswersOneResponse : Prop :=
  ∀ s t : State, step s = .next t →
    ∃ r, t.responses = s.responses ++ [r] ∧ legalResponse r = true ∧ (r.extractLsb' 30 2 = 1#2 ↔ t.fault ≠ none)

/-- 10_state.md section 6 (the access table): what each instruction may write. -/
def Obligations.InstructionsWriteOnlyTheirFields : Prop :=
  ∀ (i : Instr) (s t : State), exec i s = .next t →
    (i ≠ .init → t.dfun = s.dfun ∧ SameInit s t) ∧
    (writesDctl i = false → t.dctl = s.dctl) ∧
    (writesDmode i = false → t.dmode = s.dmode) ∧
    (writesBl i = false → t.bl = s.bl) ∧
    (i = .getBacklight → t.trace = s.trace ∧ t.txn = s.txn ∧ t.syncLost = s.syncLost) ∧
    SameParameters s t

/-! ## Invariants and whole-machine rules -/

/-- 70_reset_and_hazards.md section 1: the invariant holds at reset. The configuration and masks of `State.reset` are the model's
choice (log entry 1). -/
def Obligations.ResetMeetsTheInvariant : Prop := State.reset.Inv

/-- 10_state.md sections 2 and 4, 20_memory.md sections 1 and 3, 30_encoding.md sections 2 and 3: every step keeps the invariant. -/
def Obligations.StepKeepsTheInvariant : Prop :=
  ∀ s t : State, s.Inv → step s = .next t → t.Inv

/-- 40_core_primitives.md section 6 (the backlight bit is never stale): after any list of instructions, every byte that the next
one transmits carries the backlight bit the last backlight request asked for, its own included. -/
def Obligations.BacklightBitIsNeverStale : Prop :=
  ∀ (is : List Instr) (i : Instr) (s u t : State), s.masks.legal = true → s.fault = none → execAll is s = some u →
    u.fault = none → exec i u = .next t → t.fault = none →
      ∃ new, t.trace = u.trace ++ new ∧
        ∀ b ∈ txBytes new, (b &&& s.masks.bl ≠ 0#8) ↔ lastBacklight s.bl (is ++ [i]) = true

/-- 44_backlight.md (backlight consistency): after any list of instructions and under any oracle, GET_BACKLIGHT answers what the
last backlight request asked for. -/
def Obligations.GetBacklightAnswersTheLastRequest : Prop :=
  ∀ (is : List Instr) (s u : State), s.fault = none → execAll is s = some u → Accepts u →
    ∃ t, exec .getBacklight u = .next t ∧
      t.responses = u.responses ++ [if lastBacklight s.bl is then 0x00000001#32 else 0x00000000#32]

/-- R35: `sync_lost` is set by a failed transaction and cleared by a successful INIT alone, and nothing an instruction does
depends on it. -/
def Obligations.SyncLostIsObservational : Prop :=
  (∀ (i : Instr) (s t : State), exec i s = .next t →
    ∃ new, t.trace = s.trace ++ new ∧
      t.syncLost = if i = .init ∧ t.initState = .ready then false else s.syncLost || new.any Event.isFailure) ∧
  (∀ (i : Instr) (s t : State) (b : Bool), exec i s = .next t →
    ∃ u, exec i { s with syncLost := b } = .next u ∧ { u with syncLost := t.syncLost } = t) ∧
  State.reset.syncLost = false

/-- 00_scope.md section 3: no instruction reads the column count. -/
def Obligations.ColumnCountIsNeverRead : Prop :=
  ∀ (i : Instr) (s t : State) (n : Byte), exec i s = .next t →
    exec i { s with cfg := { s.cfg with cols := n } } = .next { t with cfg := { t.cfg with cols := n } }

/-- 10_state.md section 6: the block cannot read the expander latch: what it does, but for the latch and the strobes themselves,
does not depend on them. -/
def Obligations.LatchIsNeverRead : Prop :=
  ∀ (i : Instr) (s t : State) (l : Byte) (ks : List Strobe), exec i s = .next t →
    ∃ u, exec i { s with latch := l, strobes := ks } = .next u ∧ { u with latch := t.latch, strobes := t.strobes } = t

/-! ## What reaches the expander and the controller -/

/-- 20_memory.md section 1 (the expander output latch): an ok transaction latches its byte; a failed one leaves the latch or
latches the byte, and both are possible. -/
def Obligations.LatchHoldsTheByteOrAfterFailureEither : Prop :=
  (∀ (s : State) (a : BusAddr) (b : Byte),
    ((i2cWrite a b s).1 = true → (i2cWrite a b s).2.latch = b) ∧
    ((i2cWrite a b s).1 = false → (i2cWrite a b s).2.latch = b ∨ (i2cWrite a b s).2.latch = s.latch)) ∧
  (∀ (s : State) (a : BusAddr) (b : Byte) (landed : Bool), ∃ os : List TxOutcome,
    let s' := { s with outcomes := os }
    (i2cWrite a b s').1 = false ∧ (i2cWrite a b s').2.latch = if landed then b else s.latch)

/-- 20_memory.md sections 1 and 6: after every instruction, completed or faulted, the expander latch and the controller's strobes
are those that its transactions give, each ok byte latched, each failed one as the free choice says. -/
def Obligations.LatchAndStrobesFollowTheTransactions : Prop :=
  ∀ (i : Instr) (s t : State), exec i s = .next t →
    ∃ new, t.trace = s.trace ++ new ∧
      (t.latch, t.strobes) = replay s.masks s.omega s.txn (s.latch, s.strobes) new

/-- 20_memory.md section 6: with legal masks, Enable low before and no failure, `send` strobes exactly its two nibbles, high first,
with the mode's RS, and leaves Enable low. -/
def Obligations.SendStrobesItsTwoNibbles : Prop :=
  ∀ (s : State) (v : Byte) (m : Mode), s.masks.legal = true → enableLow s → nextOk s 6 →
    (runPlan (send s.masks v m) s).2.strobes =
      s.strobes ++ [⟨m == .data, v.extractLsb' 4 4⟩, ⟨m == .data, v.extractLsb' 0 4⟩] ∧
    enableLow (runPlan (send s.masks v m) s).2

/-- 20_memory.md section 6: what a nibble latch step from Enable low strobes, with legal masks and an argument whose Enable bit is
0. With three ok transactions: its nibble and Register Select, once. With the Enable-low byte failed: the same if that byte
reached the pins, else nothing, and Enable stays high. -/
def Obligations.NibbleStepStrobesItsNibble : Prop :=
  ∀ (s : State) (n : Byte), s.masks.legal = true → n &&& s.masks.en = 0#8 → enableLow s →
    let t := (runPlan (write4bits s.masks n) s).2
    (nextOk s 3 → t.strobes = s.strobes ++ [nibbleStrobe s.masks n] ∧ enableLow t) ∧
    (nextOk s 2 → txOk (s.omega (s.txn + 2)) = false →
      ((s.omega (s.txn + 2)).landed = true → t.strobes = s.strobes ++ [nibbleStrobe s.masks n] ∧ enableLow t) ∧
      ((s.omega (s.txn + 2)).landed = false → t.strobes = s.strobes ∧ ¬enableLow t))

/-- 41_init.md section 4 and 20_memory.md section 6: the 14 strobes of a successful INIT from Enable low, all with RS = 0: the four
single nibbles, then five pairs, which carry the five command bytes. -/
def Obligations.InitStrobesTheHandshakeFirst : Prop :=
  ∀ s : State, s.fault = none → s.masks.legal = true → enableLow s → nextOk s 43 →
    let pairs := [⟨false, 2#4⟩, ⟨false, (funBits s.cfg).extractLsb' 0 4⟩, ⟨false, 0#4⟩, ⟨false, 0xC#4⟩, ⟨false, 0#4⟩, ⟨false, 1#4⟩,
      ⟨false, 0#4⟩, ⟨false, 6#4⟩, ⟨false, 0#4⟩, ⟨false, 2#4⟩]
    (∃ t, exec .init s = .next t ∧ enableLow t ∧
      t.strobes = s.strobes ++ ([⟨false, 3#4⟩, ⟨false, 3#4⟩, ⟨false, 3#4⟩, ⟨false, 2#4⟩] ++ pairs)) ∧
    inputPairs pairs =
      some [(false, 0x20#8 ||| funBits s.cfg), (false, 0x0C#8), (false, 0x01#8), (false, 0x06#8), (false, 0x02#8)]

/-- 70_reset_and_hazards.md section 3 (half-sent byte): a COMMAND whose first three transactions are ok and whose fourth fails has
strobed its high nibble alone, answers 0 and sets `sync_lost`. -/
def Obligations.LowNibbleFailureLeavesAHalfSentByte : Prop :=
  ∀ (s : State) (v : Byte), Accepts s → s.masks.legal = true → enableLow s → nextOk s 3 →
    txOk (s.omega (s.txn + 3)) = false →
      ∃ t, exec (.command v) s = .next t ∧ t.strobes = s.strobes ++ [⟨false, v.extractLsb' 4 4⟩] ∧
        t.responses = s.responses ++ [0x00000000#32] ∧ t.syncLost = true ∧ t.txn = s.txn + 4

/-- 70_reset_and_hazards.md section 3 (Enable left high): the next ok byte with Enable low strobes the nibble and Register Select
of the stuck byte once more: any such expander write; the set-up byte of the next nibble latch step, before that step's own
strobe; the byte of BACKLIGHT_ON and of BACKLIGHT_OFF. -/
def Obligations.StuckEnableStrobesTheOldNibbleAgain : Prop :=
  ∀ s : State, s.masks.legal = true → ¬enableLow s →
    (∀ n, n &&& s.masks.en = 0#8 → nextOk s 1 →
      (expanderWrite n s).2.strobes = s.strobes ++ [nibbleStrobe s.masks s.latch] ∧ enableLow (expanderWrite n s).2) ∧
    (∀ n, n &&& s.masks.en = 0#8 → nextOk s 3 →
      (runPlan (write4bits s.masks n) s).2.strobes =
        s.strobes ++ [nibbleStrobe s.masks s.latch, nibbleStrobe s.masks n] ∧
      enableLow (runPlan (write4bits s.masks n) s).2) ∧
    (∀ b : Bool, Accepts s → nextOk s 1 →
      ∃ t, exec (if b then .backlightOn else .backlightOff) s = .next t ∧
        t.strobes = s.strobes ++ [nibbleStrobe s.masks s.latch] ∧ enableLow t)

/-- 70_reset_and_hazards.md section 4: the transactions, waits and minimum time of every instruction that completes with success. -/
def Obligations.SuccessfulRequestsTakeTheListedTime : Prop :=
  ∀ (i : Instr) (s t : State), exec i s = .next t → t.fault = none → nextOk s (tableTx i) →
    ∃ new, t.trace = s.trace ++ new ∧ txCount new = tableTx i ∧ waitCount new = tableWaits i ∧
      waitSum new = tableWaitSum i

/-! ## Construction -/

/-- R144: a configuration is refused iff its address exceeds 0x7F or its masks are illegal; else the block is built with it. -/
def Obligations.ConstructionRefusesOnlyIllegalConfigurations : Prop :=
  ∀ (addr : Nat) (cols rows : Byte) (charsize : CharSize) (p : Masks),
    ((addr > 0x7F ∨ p.legal = false) → construct addr cols rows charsize p = .refused .invalidConfig) ∧
    (addr ≤ 0x7F → p.legal = true → ∃ s, construct addr cols rows charsize p = .next s ∧
      s.cfg.addr.toNat = addr ∧ s.cfg.cols = cols ∧ s.cfg.rows = rows ∧ s.cfg.charsize = charsize ∧ s.masks = p ∧ s.Inv) ∧
    Masks.default.legal = true

/-- 10_state.md section 7: the reset values of the record `S`, whatever the configuration, which is kept as given. -/
def Obligations.ConstructedBlockHoldsTheResetValues : Prop :=
  ∀ (addr : Nat) (cols rows : Byte) (charsize : CharSize) (p : Masks) (s : State),
    construct addr cols rows charsize p = .next s →
      s.dfun = none ∧ s.dctl = none ∧ s.dmode = none ∧ s.bl = true ∧ s.initCalled = false ∧ s.initState = .unpowered ∧
      s.fault = none ∧ s.trace = [] ∧ s.txn = 0 ∧ s.pc = 0 ∧ s.syncLost = false ∧
      s.cfg.addr.toNat = addr ∧ s.cfg.cols = cols ∧ s.cfg.rows = rows ∧ s.cfg.charsize = charsize ∧ s.masks = p
end

