-- ==== Sys2Proof/Laws/Bits.lean ====
section
/-! SUPPORT. Bits of expander bytes: what legal masks (R9) say, said once. -/

namespace Sys2Proof

/-- What holds of each legal assignment of the four masks holds of every legal `Masks` (R9). -/
theorem Masks.legal_induction {P : Masks → Prop}
    (h : ∀ a ∈ [0x01#8, 0x02#8, 0x04#8, 0x08#8], ∀ b ∈ [0x01#8, 0x02#8, 0x04#8, 0x08#8],
      ∀ c ∈ [0x01#8, 0x02#8, 0x04#8, 0x08#8], ∀ d ∈ [0x01#8, 0x02#8, 0x04#8, 0x08#8],
        (⟨a, b, c, d⟩ : Masks).legal = true → P ⟨a, b, c, d⟩)
    (p : Masks) (hp : p.legal = true) : P p := by
  have hp' := hp
  rcases p with ⟨a, b, c, d⟩
  simp only [Masks.legal, oneLowBit, Bool.and_eq_true, Bool.or_eq_true, beq_iff_eq, bne_iff_ne] at hp
  obtain ⟨⟨⟨⟨⟨⟨⟨⟨⟨ha, hb⟩, hc⟩, hd⟩, -⟩, -⟩, -⟩, -⟩, -⟩, -⟩ := hp
  exact h a (by simp [or_assoc] at ha ⊢; exact ha) b (by simp [or_assoc] at hb ⊢; exact hb)
    c (by simp [or_assoc] at hc ⊢; exact hc) d (by simp [or_assoc] at hd ⊢; exact hd) hp'

/-- The masks and the data field 7:4 do not overlap (R9). -/
structure Masks.Apart (p : Masks) : Prop where
  rs_en : p.rs &&& p.en = 0#8
  rs_bl : p.rs &&& p.bl = 0#8
  rs_rw : p.rs &&& p.rw = 0#8
  en_rs : p.en &&& p.rs = 0#8
  en_bl : p.en &&& p.bl = 0#8
  en_rw : p.en &&& p.rw = 0#8
  bl_rs : p.bl &&& p.rs = 0#8
  bl_en : p.bl &&& p.en = 0#8
  bl_rw : p.bl &&& p.rw = 0#8
  data_rs : 0xF0#8 &&& p.rs = 0#8
  data_en : 0xF0#8 &&& p.en = 0#8
  data_bl : 0xF0#8 &&& p.bl = 0#8
  data_rw : 0xF0#8 &&& p.rw = 0#8
  rs_data : p.rs &&& 0xF0#8 = 0#8
  en_data : p.en &&& 0xF0#8 = 0#8
  bl_data : p.bl &&& 0xF0#8 = 0#8
  rs_ne : p.rs ≠ 0#8
  en_ne : p.en ≠ 0#8
  bl_ne : p.bl ≠ 0#8

theorem Masks.apart_of_legal {p : Masks} (h : p.legal = true) : p.Apart := by
  refine Masks.legal_induction (P := Masks.Apart) ?_ p h
  have key : ∀ a ∈ [0x01#8, 0x02#8, 0x04#8, 0x08#8], ∀ b ∈ [0x01#8, 0x02#8, 0x04#8, 0x08#8], a ≠ b → a &&& b = 0#8 := by
    decide
  have data : ∀ a ∈ [0x01#8, 0x02#8, 0x04#8, 0x08#8], 0xF0#8 &&& a = 0#8 ∧ a &&& 0xF0#8 = 0#8 ∧ a ≠ 0#8 := by decide
  intro a ha b hb c hc d hd hl
  simp only [Masks.legal, Bool.and_eq_true, bne_iff_ne] at hl
  obtain ⟨⟨⟨⟨⟨⟨-, ab⟩, ac⟩, ad⟩, bc⟩, bd⟩, cd⟩ := hl
  exact {
    rs_en := key a ha c hc ac, rs_bl := key a ha d hd ad, rs_rw := key a ha b hb ab, en_rs := key c hc a ha ac.symm,
    en_bl := key c hc d hd cd, en_rw := key c hc b hb bc.symm, bl_rs := key d hd a ha ad.symm,
    bl_en := key d hd c hc cd.symm, bl_rw := key d hd b hb bd.symm, data_rs := (data a ha).1, data_en := (data c hc).1,
    data_bl := (data d hd).1, data_rw := (data b hb).1, rs_data := (data a ha).2.1, en_data := (data c hc).2.1,
    bl_data := (data d hd).2.1, rs_ne := (data a ha).2.2, en_ne := (data c hc).2.2, bl_ne := (data d hd).2.2 }

theorem or_and_of_left {a b m : Byte} (h : a &&& m = 0#8) : (a ||| b) &&& m = b &&& m := by
  rw [← BitVec.or_zero (x := b &&& m), ← h]
  ext i; simp; cases a[i] <;> cases b[i] <;> cases m[i] <;> rfl

theorem or_and_of_right {a b m : Byte} (h : b &&& m = 0#8) : (a ||| b) &&& m = a &&& m := by
  rw [BitVec.or_comm, or_and_of_left h]

theorem or_and_zero {a b m : Byte} (ha : a &&& m = 0#8) (hb : b &&& m = 0#8) : (a ||| b) &&& m = 0#8 := by
  rw [or_and_of_left ha, hb]

theorem and_and_zero_left {a b m : Byte} (h : b &&& m = 0#8) : (a &&& b) &&& m = 0#8 := by
  rw [BitVec.and_assoc, h]; simp

theorem and_and_zero_right {a b m : Byte} (h : a &&& m = 0#8) : (a &&& b) &&& m = 0#8 := by
  rw [BitVec.and_comm a b, and_and_zero_left h]

/-- Clearing bits that are 0 changes nothing. -/
theorem and_not_of_and_zero {n m : Byte} (h : n &&& m = 0#8) : n &&& ~~~m = n := by
  have : (n &&& m) ||| (n &&& ~~~m) = n := by
    ext i; simp; cases n[i] <;> cases m[i] <;> rfl
  rw [h] at this; simpa using this

/-- Control bits do not reach the data nibble. -/
theorem nibble_or {a b : Byte} (h : b &&& 0xF0#8 = 0#8) : (a ||| b).extractLsb' 4 4 = a.extractLsb' 4 4 := by
  have key : ∀ b : Byte, b &&& 0xF0#8 = 0#8 → b.extractLsb' 4 4 = 0#4 := by decide
  rw [BitVec.extractLsb'_or, key b h]; simp

/-- The high nibble of a byte, as the splitter places it (R90). -/
theorem nibble_high : ∀ v : Byte, (v &&& 0xF0#8).extractLsb' 4 4 = v.extractLsb' 4 4 := by decide

/-- The low nibble of a byte, shifted into bits 7:4 (R90). -/
theorem nibble_low : ∀ v : Byte, (v <<< 4 &&& 0xF0#8).extractLsb' 4 4 = v.extractLsb' 0 4 := by decide

end Sys2Proof
end

