-- ==== Sys2Proof/Laws/Decode.lean ====
section
/-! SUPPORT. The fields of a word, what a word made from fields holds, and how the request decoder branches (R50, R67 to R73). -/

namespace Sys2Proof

/-! ## Fields -/

theorem fieldOp_toNat (w : Word) : (fieldOp w).toNat = w.toNat / 2 ^ 24 := by
  have := w.isLt
  simp only [fieldOp, BitVec.extractLsb'_toNat, Nat.shiftRight_eq_div_pow]
  omega

theorem fieldA_toNat (w : Word) : (fieldA w).toNat = w.toNat / 2 ^ 16 % 256 := by
  simp only [fieldA, BitVec.extractLsb'_toNat, Nat.shiftRight_eq_div_pow]

theorem fieldB_toNat (w : Word) : (fieldB w).toNat = w.toNat / 2 ^ 8 % 256 := by
  simp only [fieldB, BitVec.extractLsb'_toNat, Nat.shiftRight_eq_div_pow]

theorem fieldC_toNat (w : Word) : (fieldC w).toNat = w.toNat % 256 := by
  simp only [fieldC, BitVec.extractLsb'_toNat, Nat.shiftRight_eq_div_pow]
  norm_num

theorem fieldLen_eq (w : Word) : fieldLen w = w.toNat % 2 ^ 16 := by
  simp only [fieldLen, BitVec.extractLsb'_toNat, Nat.shiftRight_eq_div_pow]
  norm_num

theorem wordOfBytes_toNat (a b c d : Byte) :
    (wordOfBytes a b c d).toNat = a.toNat * 2 ^ 24 + b.toNat * 2 ^ 16 + c.toNat * 2 ^ 8 + d.toNat := by
  simp only [wordOfBytes, BitVec.toNat_append]
  have := b.isLt
  have := c.isLt
  have := d.isLt
  rw [← Nat.shiftLeft_add_eq_or_of_lt (by omega), ← Nat.shiftLeft_add_eq_or_of_lt (by omega),
    ← Nat.shiftLeft_add_eq_or_of_lt (by omega)]
  simp only [Nat.shiftLeft_eq]
  omega

theorem headerFS_toNat (op : Byte) (n : BitVec 16) : (headerFS op n).toNat = op.toNat * 2 ^ 24 + n.toNat := by
  simp only [headerFS, BitVec.toNat_append]
  have := n.isLt
  rw [← Nat.shiftLeft_add_eq_or_of_lt (by omega), ← Nat.shiftLeft_add_eq_or_of_lt (by decide)]
  simp only [Nat.shiftLeft_eq]
  simp
  omega

@[simp] theorem fieldOp_wordOfBytes (a b c d : Byte) : fieldOp (wordOfBytes a b c d) = a := by
  apply BitVec.eq_of_toNat_eq
  rw [fieldOp_toNat, wordOfBytes_toNat]
  have := b.isLt
  have := c.isLt
  have := d.isLt
  omega

@[simp] theorem fieldA_wordOfBytes (a b c d : Byte) : fieldA (wordOfBytes a b c d) = b := by
  apply BitVec.eq_of_toNat_eq
  rw [fieldA_toNat, wordOfBytes_toNat]
  have := b.isLt
  have := c.isLt
  have := d.isLt
  omega

@[simp] theorem fieldB_wordOfBytes (a b c d : Byte) : fieldB (wordOfBytes a b c d) = c := by
  apply BitVec.eq_of_toNat_eq
  rw [fieldB_toNat, wordOfBytes_toNat]
  have := c.isLt
  have := d.isLt
  omega

@[simp] theorem fieldC_wordOfBytes (a b c d : Byte) : fieldC (wordOfBytes a b c d) = d := by
  apply BitVec.eq_of_toNat_eq
  rw [fieldC_toNat, wordOfBytes_toNat]
  have := d.isLt
  omega

/-- A word is its four bytes. -/
theorem wordOfBytes_fields (w : Word) : wordOfBytes (fieldOp w) (fieldA w) (fieldB w) (fieldC w) = w := by
  apply BitVec.eq_of_toNat_eq
  rw [wordOfBytes_toNat, fieldOp_toNat, fieldA_toNat, fieldB_toNat, fieldC_toNat]
  omega

@[simp] theorem fieldLen_headerFS (op : Byte) (n : BitVec 16) : fieldLen (headerFS op n) = n.toNat := by
  rw [fieldLen_eq, headerFS_toNat]
  have := n.isLt
  omega

@[simp] theorem fieldOp_headerFS (op : Byte) (n : BitVec 16) : fieldOp (headerFS op n) = op := by
  apply BitVec.eq_of_toNat_eq
  rw [fieldOp_toNat, headerFS_toNat]
  have := n.isLt
  omega

@[simp] theorem fieldA_headerFS (op : Byte) (n : BitVec 16) : fieldA (headerFS op n) = 0#8 := by
  apply BitVec.eq_of_toNat_eq
  rw [fieldA_toNat, headerFS_toNat]
  have := n.isLt
  simp
  omega

/-- A header with bits 23:16 zero is a header of format FS. -/
theorem headerFS_fields (w : Word) (h : fieldA w = 0#8) : headerFS (fieldOp w) (BitVec.ofNat 16 (fieldLen w)) = w := by
  have h1 := fieldA_toNat w
  rw [h] at h1
  simp at h1
  apply BitVec.eq_of_toNat_eq
  rw [headerFS_toNat, fieldOp_toNat, fieldLen_eq]
  simp
  omega

/-! ## Payloads -/

theorem packBytes_length (text : List Byte) : (packBytes text).length = payloadWords text.length := by
  induction text using packBytes.induct <;> simp_all [packBytes, payloadWords]
  omega

/-- The bytes of a packed string are the string and zeros (R70). -/
theorem bytesOfWords_packBytes (text : List Byte) :
    ∃ k, bytesOfWords (packBytes text) = text ++ List.replicate k 0#8 := by
  induction text using packBytes.induct with
  | case1 => exact ⟨0, rfl⟩
  | case2 a => exact ⟨3, by simp [packBytes, bytesOfWords, bytesOfWord, List.replicate]⟩
  | case3 a b => exact ⟨2, by simp [packBytes, bytesOfWords, bytesOfWord, List.replicate]⟩
  | case4 a b c => exact ⟨1, by simp [packBytes, bytesOfWords, bytesOfWord, List.replicate]⟩
  | case5 a b c d rest ih =>
    obtain ⟨k, hk⟩ := ih
    exact ⟨k, by simp [packBytes, bytesOfWords, bytesOfWord, hk]⟩

theorem bytesOfWords_length (ws : List Word) : (bytesOfWords ws).length = 4 * ws.length := by
  induction ws with
  | nil => rfl
  | cons w ws ih => simp [bytesOfWords, bytesOfWord, ih]; omega

/-- Packing the first bytes of a payload whose padding is zero gives the payload back (R70). -/
theorem packBytes_bytesOfWords (ws : List Word) : ∀ n, payloadWords n = ws.length →
    ((bytesOfWords ws).drop n).all (· == 0#8) = true → packBytes ((bytesOfWords ws).take n) = ws := by
  induction ws with
  | nil => intro n _ _; simp [bytesOfWords, packBytes]
  | cons w ws ih =>
    intro n hn hz
    simp only [List.length_cons, payloadWords] at hn
    by_cases h4 : 4 ≤ n
    · obtain ⟨m, rfl⟩ : ∃ m, n = m + 4 := ⟨n - 4, by omega⟩
      simp only [bytesOfWords, bytesOfWord, List.cons_append, List.nil_append, List.take_succ_cons,
        List.drop_succ_cons] at hz ⊢
      rw [packBytes, ih m (by unfold payloadWords; omega) hz, wordOfBytes_fields]
    · have hw : ws = [] := List.length_eq_zero_iff.mp (by omega)
      subst hw
      have hn3 : n = 1 ∨ n = 2 ∨ n = 3 := by simp at hn; omega
      rcases hn3 with rfl | rfl | rfl <;>
        simp [bytesOfWords, bytesOfWord] at hz ⊢ <;>
        simp only [packBytes] <;> simp only [List.cons.injEq, and_true] <;>
        conv_rhs => rw [← wordOfBytes_fields w]
      all_goals simp [hz]

/-! ## How the decoder branches -/

theorem decodeRequest_createChar {w : Word} (h : fieldOp w = 0x11#8) (rest : List Word) :
    decodeRequest w rest = decodeFC w rest := by unfold decodeRequest; rw [h]; rfl

theorem decodeRequest_printstr {w : Word} (h : fieldOp w = 0x17#8) (rest : List Word) :
    decodeRequest w rest = decodeFS w rest := by unfold decodeRequest; rw [h]; rfl

/-- Every other request is in its header alone. -/
theorem decodeRequest_of_short {w : Word} (h1 : fieldOp w ≠ 0x11#8) (h2 : fieldOp w ≠ 0x17#8) (rest : List Word) :
    decodeRequest w rest = decodeRequest w [] := by
  unfold decodeRequest
  rw [if_neg h1, if_neg h2, if_neg h1, if_neg h2]

theorem decodeF0_request {w : Word} {j i : Instr} {op : Byte} (ho : fieldOp w = op) (h : decodeF0 w j = .request i) :
    i = j ∧ headerF0 op = w := by
  rw [decodeF0] at h
  split at h
  · rename_i hz
    refine ⟨by simpa using h.symm, ?_⟩
    conv_rhs => rw [← wordOfBytes_fields w, hz.1, hz.2.1, hz.2.2, ho]
    rfl
  · cases h

theorem decodeF1_request {w : Word} {f : Byte → Instr} {i : Instr} {op : Byte} (ho : fieldOp w = op)
    (h : decodeF1 w f = .request i) : i = f (fieldA w) ∧ headerF1 op (fieldA w) = w := by
  rw [decodeF1] at h
  split at h
  · rename_i hz
    refine ⟨by simpa using h.symm, ?_⟩
    conv_rhs => rw [← wordOfBytes_fields w, hz.1, hz.2, ho]
    rfl
  · cases h

theorem decodeF2_request {w : Word} {f : Byte → Byte → Instr} {i : Instr} {op : Byte} (ho : fieldOp w = op)
    (h : decodeF2 w f = .request i) : i = f (fieldA w) (fieldB w) ∧ headerF2 op (fieldA w) (fieldB w) = w := by
  rw [decodeF2] at h
  split at h
  · rename_i hz
    refine ⟨by simpa using h.symm, ?_⟩
    conv_rhs => rw [← wordOfBytes_fields w, hz, ho]
    rfl
  · cases h

/-- One branch of the decoder's chain. -/
theorem ite_eq_cases {α : Type} {c : Prop} [Decidable c] {a b x : α} (h : (if c then a else b) = x) :
    (c ∧ a = x) ∨ (¬c ∧ b = x) := by
  by_cases hc : c
  · exact .inl ⟨hc, by rw [if_pos hc] at h; exact h⟩
  · exact .inr ⟨hc, by rw [if_neg hc] at h; exact h⟩

end Sys2Proof
end

