-- ==== Sys2Proof/Laws/State.lean ====
section
/-! SUPPORT. One lemma for each field and each named update of the state, each by definition. -/

namespace Sys2Proof.Machine

@[simp] theorem emit_cfg (s : State) (e : Event) : (s.emit e).cfg = s.cfg := rfl
@[simp] theorem emit_masks (s : State) (e : Event) : (s.emit e).masks = s.masks := rfl
@[simp] theorem emit_dfun (s : State) (e : Event) : (s.emit e).dfun = s.dfun := rfl
@[simp] theorem emit_dctl (s : State) (e : Event) : (s.emit e).dctl = s.dctl := rfl
@[simp] theorem emit_dmode (s : State) (e : Event) : (s.emit e).dmode = s.dmode := rfl
@[simp] theorem emit_bl (s : State) (e : Event) : (s.emit e).bl = s.bl := rfl
@[simp] theorem emit_initCalled (s : State) (e : Event) : (s.emit e).initCalled = s.initCalled := rfl
@[simp] theorem emit_initState (s : State) (e : Event) : (s.emit e).initState = s.initState := rfl
@[simp] theorem emit_fault (s : State) (e : Event) : (s.emit e).fault = s.fault := rfl
@[simp] theorem emit_trace (s : State) (e : Event) : (s.emit e).trace = s.trace ++ [e] := rfl
@[simp] theorem emit_txn (s : State) (e : Event) : (s.emit e).txn = s.txn := rfl
@[simp] theorem emit_pc (s : State) (e : Event) : (s.emit e).pc = s.pc := rfl
@[simp] theorem emit_syncLost (s : State) (e : Event) : (s.emit e).syncLost = s.syncLost := rfl
@[simp] theorem emit_words (s : State) (e : Event) : (s.emit e).words = s.words := rfl
@[simp] theorem emit_responses (s : State) (e : Event) : (s.emit e).responses = s.responses := rfl
@[simp] theorem emit_outcomes (s : State) (e : Event) : (s.emit e).outcomes = s.outcomes := rfl
@[simp] theorem emit_latch (s : State) (e : Event) : (s.emit e).latch = s.latch := rfl
@[simp] theorem emit_strobes (s : State) (e : Event) : (s.emit e).strobes = s.strobes := rfl

@[simp] theorem enter_cfg (s : State) (q : InitState) : (s.enter q).cfg = s.cfg := rfl
@[simp] theorem enter_masks (s : State) (q : InitState) : (s.enter q).masks = s.masks := rfl
@[simp] theorem enter_dfun (s : State) (q : InitState) : (s.enter q).dfun = s.dfun := rfl
@[simp] theorem enter_dctl (s : State) (q : InitState) : (s.enter q).dctl = s.dctl := rfl
@[simp] theorem enter_dmode (s : State) (q : InitState) : (s.enter q).dmode = s.dmode := rfl
@[simp] theorem enter_bl (s : State) (q : InitState) : (s.enter q).bl = s.bl := rfl
@[simp] theorem enter_initCalled (s : State) (q : InitState) : (s.enter q).initCalled = s.initCalled := rfl
@[simp] theorem enter_initState (s : State) (q : InitState) : (s.enter q).initState = q := rfl
@[simp] theorem enter_fault (s : State) (q : InitState) : (s.enter q).fault = s.fault := rfl
@[simp] theorem enter_trace (s : State) (q : InitState) : (s.enter q).trace = s.trace := rfl
@[simp] theorem enter_txn (s : State) (q : InitState) : (s.enter q).txn = s.txn := rfl
@[simp] theorem enter_pc (s : State) (q : InitState) : (s.enter q).pc = s.pc := rfl
@[simp] theorem enter_syncLost (s : State) (q : InitState) : (s.enter q).syncLost = s.syncLost := rfl
@[simp] theorem enter_words (s : State) (q : InitState) : (s.enter q).words = s.words := rfl
@[simp] theorem enter_responses (s : State) (q : InitState) : (s.enter q).responses = s.responses := rfl
@[simp] theorem enter_outcomes (s : State) (q : InitState) : (s.enter q).outcomes = s.outcomes := rfl
@[simp] theorem enter_latch (s : State) (q : InitState) : (s.enter q).latch = s.latch := rfl
@[simp] theorem enter_strobes (s : State) (q : InitState) : (s.enter q).strobes = s.strobes := rfl

@[simp] theorem setDfun_cfg (s : State) (v : Byte) : (s.setDfun v).cfg = s.cfg := rfl
@[simp] theorem setDfun_masks (s : State) (v : Byte) : (s.setDfun v).masks = s.masks := rfl
@[simp] theorem setDfun_dfun (s : State) (v : Byte) : (s.setDfun v).dfun = some v := rfl
@[simp] theorem setDfun_dctl (s : State) (v : Byte) : (s.setDfun v).dctl = s.dctl := rfl
@[simp] theorem setDfun_dmode (s : State) (v : Byte) : (s.setDfun v).dmode = s.dmode := rfl
@[simp] theorem setDfun_bl (s : State) (v : Byte) : (s.setDfun v).bl = s.bl := rfl
@[simp] theorem setDfun_initCalled (s : State) (v : Byte) : (s.setDfun v).initCalled = s.initCalled := rfl
@[simp] theorem setDfun_initState (s : State) (v : Byte) : (s.setDfun v).initState = s.initState := rfl
@[simp] theorem setDfun_fault (s : State) (v : Byte) : (s.setDfun v).fault = s.fault := rfl
@[simp] theorem setDfun_trace (s : State) (v : Byte) : (s.setDfun v).trace = s.trace := rfl
@[simp] theorem setDfun_txn (s : State) (v : Byte) : (s.setDfun v).txn = s.txn := rfl
@[simp] theorem setDfun_pc (s : State) (v : Byte) : (s.setDfun v).pc = s.pc := rfl
@[simp] theorem setDfun_syncLost (s : State) (v : Byte) : (s.setDfun v).syncLost = s.syncLost := rfl
@[simp] theorem setDfun_words (s : State) (v : Byte) : (s.setDfun v).words = s.words := rfl
@[simp] theorem setDfun_responses (s : State) (v : Byte) : (s.setDfun v).responses = s.responses := rfl
@[simp] theorem setDfun_outcomes (s : State) (v : Byte) : (s.setDfun v).outcomes = s.outcomes := rfl
@[simp] theorem setDfun_latch (s : State) (v : Byte) : (s.setDfun v).latch = s.latch := rfl
@[simp] theorem setDfun_strobes (s : State) (v : Byte) : (s.setDfun v).strobes = s.strobes := rfl

@[simp] theorem setDctl_cfg (s : State) (v : Byte) : (s.setDctl v).cfg = s.cfg := rfl
@[simp] theorem setDctl_masks (s : State) (v : Byte) : (s.setDctl v).masks = s.masks := rfl
@[simp] theorem setDctl_dfun (s : State) (v : Byte) : (s.setDctl v).dfun = s.dfun := rfl
@[simp] theorem setDctl_dctl (s : State) (v : Byte) : (s.setDctl v).dctl = some v := rfl
@[simp] theorem setDctl_dmode (s : State) (v : Byte) : (s.setDctl v).dmode = s.dmode := rfl
@[simp] theorem setDctl_bl (s : State) (v : Byte) : (s.setDctl v).bl = s.bl := rfl
@[simp] theorem setDctl_initCalled (s : State) (v : Byte) : (s.setDctl v).initCalled = s.initCalled := rfl
@[simp] theorem setDctl_initState (s : State) (v : Byte) : (s.setDctl v).initState = s.initState := rfl
@[simp] theorem setDctl_fault (s : State) (v : Byte) : (s.setDctl v).fault = s.fault := rfl
@[simp] theorem setDctl_trace (s : State) (v : Byte) : (s.setDctl v).trace = s.trace := rfl
@[simp] theorem setDctl_txn (s : State) (v : Byte) : (s.setDctl v).txn = s.txn := rfl
@[simp] theorem setDctl_pc (s : State) (v : Byte) : (s.setDctl v).pc = s.pc := rfl
@[simp] theorem setDctl_syncLost (s : State) (v : Byte) : (s.setDctl v).syncLost = s.syncLost := rfl
@[simp] theorem setDctl_words (s : State) (v : Byte) : (s.setDctl v).words = s.words := rfl
@[simp] theorem setDctl_responses (s : State) (v : Byte) : (s.setDctl v).responses = s.responses := rfl
@[simp] theorem setDctl_outcomes (s : State) (v : Byte) : (s.setDctl v).outcomes = s.outcomes := rfl
@[simp] theorem setDctl_latch (s : State) (v : Byte) : (s.setDctl v).latch = s.latch := rfl
@[simp] theorem setDctl_strobes (s : State) (v : Byte) : (s.setDctl v).strobes = s.strobes := rfl

@[simp] theorem setDmode_cfg (s : State) (v : Byte) : (s.setDmode v).cfg = s.cfg := rfl
@[simp] theorem setDmode_masks (s : State) (v : Byte) : (s.setDmode v).masks = s.masks := rfl
@[simp] theorem setDmode_dfun (s : State) (v : Byte) : (s.setDmode v).dfun = s.dfun := rfl
@[simp] theorem setDmode_dctl (s : State) (v : Byte) : (s.setDmode v).dctl = s.dctl := rfl
@[simp] theorem setDmode_dmode (s : State) (v : Byte) : (s.setDmode v).dmode = some v := rfl
@[simp] theorem setDmode_bl (s : State) (v : Byte) : (s.setDmode v).bl = s.bl := rfl
@[simp] theorem setDmode_initCalled (s : State) (v : Byte) : (s.setDmode v).initCalled = s.initCalled := rfl
@[simp] theorem setDmode_initState (s : State) (v : Byte) : (s.setDmode v).initState = s.initState := rfl
@[simp] theorem setDmode_fault (s : State) (v : Byte) : (s.setDmode v).fault = s.fault := rfl
@[simp] theorem setDmode_trace (s : State) (v : Byte) : (s.setDmode v).trace = s.trace := rfl
@[simp] theorem setDmode_txn (s : State) (v : Byte) : (s.setDmode v).txn = s.txn := rfl
@[simp] theorem setDmode_pc (s : State) (v : Byte) : (s.setDmode v).pc = s.pc := rfl
@[simp] theorem setDmode_syncLost (s : State) (v : Byte) : (s.setDmode v).syncLost = s.syncLost := rfl
@[simp] theorem setDmode_words (s : State) (v : Byte) : (s.setDmode v).words = s.words := rfl
@[simp] theorem setDmode_responses (s : State) (v : Byte) : (s.setDmode v).responses = s.responses := rfl
@[simp] theorem setDmode_outcomes (s : State) (v : Byte) : (s.setDmode v).outcomes = s.outcomes := rfl
@[simp] theorem setDmode_latch (s : State) (v : Byte) : (s.setDmode v).latch = s.latch := rfl
@[simp] theorem setDmode_strobes (s : State) (v : Byte) : (s.setDmode v).strobes = s.strobes := rfl

@[simp] theorem setBl_cfg (s : State) (b : Bool) : (s.setBl b).cfg = s.cfg := rfl
@[simp] theorem setBl_masks (s : State) (b : Bool) : (s.setBl b).masks = s.masks := rfl
@[simp] theorem setBl_dfun (s : State) (b : Bool) : (s.setBl b).dfun = s.dfun := rfl
@[simp] theorem setBl_dctl (s : State) (b : Bool) : (s.setBl b).dctl = s.dctl := rfl
@[simp] theorem setBl_dmode (s : State) (b : Bool) : (s.setBl b).dmode = s.dmode := rfl
@[simp] theorem setBl_bl (s : State) (b : Bool) : (s.setBl b).bl = b := rfl
@[simp] theorem setBl_initCalled (s : State) (b : Bool) : (s.setBl b).initCalled = s.initCalled := rfl
@[simp] theorem setBl_initState (s : State) (b : Bool) : (s.setBl b).initState = s.initState := rfl
@[simp] theorem setBl_fault (s : State) (b : Bool) : (s.setBl b).fault = s.fault := rfl
@[simp] theorem setBl_trace (s : State) (b : Bool) : (s.setBl b).trace = s.trace := rfl
@[simp] theorem setBl_txn (s : State) (b : Bool) : (s.setBl b).txn = s.txn := rfl
@[simp] theorem setBl_pc (s : State) (b : Bool) : (s.setBl b).pc = s.pc := rfl
@[simp] theorem setBl_syncLost (s : State) (b : Bool) : (s.setBl b).syncLost = s.syncLost := rfl
@[simp] theorem setBl_words (s : State) (b : Bool) : (s.setBl b).words = s.words := rfl
@[simp] theorem setBl_responses (s : State) (b : Bool) : (s.setBl b).responses = s.responses := rfl
@[simp] theorem setBl_outcomes (s : State) (b : Bool) : (s.setBl b).outcomes = s.outcomes := rfl
@[simp] theorem setBl_latch (s : State) (b : Bool) : (s.setBl b).latch = s.latch := rfl
@[simp] theorem setBl_strobes (s : State) (b : Bool) : (s.setBl b).strobes = s.strobes := rfl

@[simp] theorem complete_cfg (s : State) (len : Nat) (val : BitVec 16) : (complete len val s).cfg = s.cfg := rfl
@[simp] theorem complete_masks (s : State) (len : Nat) (val : BitVec 16) : (complete len val s).masks = s.masks := rfl
@[simp] theorem complete_dfun (s : State) (len : Nat) (val : BitVec 16) : (complete len val s).dfun = s.dfun := rfl
@[simp] theorem complete_dctl (s : State) (len : Nat) (val : BitVec 16) : (complete len val s).dctl = s.dctl := rfl
@[simp] theorem complete_dmode (s : State) (len : Nat) (val : BitVec 16) : (complete len val s).dmode = s.dmode := rfl
@[simp] theorem complete_bl (s : State) (len : Nat) (val : BitVec 16) : (complete len val s).bl = s.bl := rfl
@[simp] theorem complete_initCalled (s : State) (len : Nat) (val : BitVec 16) : (complete len val s).initCalled = s.initCalled := rfl
@[simp] theorem complete_initState (s : State) (len : Nat) (val : BitVec 16) : (complete len val s).initState = s.initState := rfl
@[simp] theorem complete_fault (s : State) (len : Nat) (val : BitVec 16) : (complete len val s).fault = s.fault := rfl
@[simp] theorem complete_trace (s : State) (len : Nat) (val : BitVec 16) : (complete len val s).trace = s.trace := rfl
@[simp] theorem complete_txn (s : State) (len : Nat) (val : BitVec 16) : (complete len val s).txn = s.txn := rfl
@[simp] theorem complete_pc (s : State) (len : Nat) (val : BitVec 16) : (complete len val s).pc = s.pc + len := rfl
@[simp] theorem complete_syncLost (s : State) (len : Nat) (val : BitVec 16) : (complete len val s).syncLost = s.syncLost := rfl
@[simp] theorem complete_words (s : State) (len : Nat) (val : BitVec 16) : (complete len val s).words = s.words := rfl
@[simp] theorem complete_responses (s : State) (len : Nat) (val : BitVec 16) : (complete len val s).responses = s.responses ++ [completedWord val] := rfl
@[simp] theorem complete_outcomes (s : State) (len : Nat) (val : BitVec 16) : (complete len val s).outcomes = s.outcomes := rfl
@[simp] theorem complete_latch (s : State) (len : Nat) (val : BitVec 16) : (complete len val s).latch = s.latch := rfl
@[simp] theorem complete_strobes (s : State) (len : Nat) (val : BitVec 16) : (complete len val s).strobes = s.strobes := rfl

@[simp] theorem raise_cfg (s : State) (f : FaultCode) : (raise f s).cfg = s.cfg := rfl
@[simp] theorem raise_masks (s : State) (f : FaultCode) : (raise f s).masks = s.masks := rfl
@[simp] theorem raise_dfun (s : State) (f : FaultCode) : (raise f s).dfun = s.dfun := rfl
@[simp] theorem raise_dctl (s : State) (f : FaultCode) : (raise f s).dctl = s.dctl := rfl
@[simp] theorem raise_dmode (s : State) (f : FaultCode) : (raise f s).dmode = s.dmode := rfl
@[simp] theorem raise_bl (s : State) (f : FaultCode) : (raise f s).bl = s.bl := rfl
@[simp] theorem raise_initCalled (s : State) (f : FaultCode) : (raise f s).initCalled = s.initCalled := rfl
@[simp] theorem raise_initState (s : State) (f : FaultCode) : (raise f s).initState = s.initState := rfl
@[simp] theorem raise_fault (s : State) (f : FaultCode) : (raise f s).fault = some f := rfl
@[simp] theorem raise_trace (s : State) (f : FaultCode) : (raise f s).trace = s.trace := rfl
@[simp] theorem raise_txn (s : State) (f : FaultCode) : (raise f s).txn = s.txn := rfl
@[simp] theorem raise_pc (s : State) (f : FaultCode) : (raise f s).pc = s.pc := rfl
@[simp] theorem raise_syncLost (s : State) (f : FaultCode) : (raise f s).syncLost = s.syncLost := rfl
@[simp] theorem raise_words (s : State) (f : FaultCode) : (raise f s).words = s.words := rfl
@[simp] theorem raise_responses (s : State) (f : FaultCode) : (raise f s).responses = s.responses ++ [faultedWord (codeOf f)] := rfl
@[simp] theorem raise_outcomes (s : State) (f : FaultCode) : (raise f s).outcomes = s.outcomes := rfl
@[simp] theorem raise_latch (s : State) (f : FaultCode) : (raise f s).latch = s.latch := rfl
@[simp] theorem raise_strobes (s : State) (f : FaultCode) : (raise f s).strobes = s.strobes := rfl

@[simp] theorem beginInit_cfg (s : State) : (beginInit s).cfg = s.cfg := rfl
@[simp] theorem beginInit_masks (s : State) : (beginInit s).masks = s.masks := rfl
@[simp] theorem beginInit_dfun (s : State) : (beginInit s).dfun = s.dfun := rfl
@[simp] theorem beginInit_dctl (s : State) : (beginInit s).dctl = s.dctl := rfl
@[simp] theorem beginInit_dmode (s : State) : (beginInit s).dmode = s.dmode := rfl
@[simp] theorem beginInit_bl (s : State) : (beginInit s).bl = s.bl := rfl
@[simp] theorem beginInit_initCalled (s : State) : (beginInit s).initCalled = true := rfl
@[simp] theorem beginInit_initState (s : State) : (beginInit s).initState = .unpowered := rfl
@[simp] theorem beginInit_fault (s : State) : (beginInit s).fault = s.fault := rfl
@[simp] theorem beginInit_trace (s : State) : (beginInit s).trace = s.trace := rfl
@[simp] theorem beginInit_txn (s : State) : (beginInit s).txn = s.txn := rfl
@[simp] theorem beginInit_pc (s : State) : (beginInit s).pc = s.pc := rfl
@[simp] theorem beginInit_syncLost (s : State) : (beginInit s).syncLost = s.syncLost := rfl
@[simp] theorem beginInit_words (s : State) : (beginInit s).words = s.words := rfl
@[simp] theorem beginInit_responses (s : State) : (beginInit s).responses = s.responses := rfl
@[simp] theorem beginInit_outcomes (s : State) : (beginInit s).outcomes = s.outcomes := rfl
@[simp] theorem beginInit_latch (s : State) : (beginInit s).latch = s.latch := rfl
@[simp] theorem beginInit_strobes (s : State) : (beginInit s).strobes = s.strobes := rfl

@[simp] theorem submit_cfg (s : State) (ws : List Word) : (submit ws s).cfg = s.cfg := rfl
@[simp] theorem submit_masks (s : State) (ws : List Word) : (submit ws s).masks = s.masks := rfl
@[simp] theorem submit_dfun (s : State) (ws : List Word) : (submit ws s).dfun = s.dfun := rfl
@[simp] theorem submit_dctl (s : State) (ws : List Word) : (submit ws s).dctl = s.dctl := rfl
@[simp] theorem submit_dmode (s : State) (ws : List Word) : (submit ws s).dmode = s.dmode := rfl
@[simp] theorem submit_bl (s : State) (ws : List Word) : (submit ws s).bl = s.bl := rfl
@[simp] theorem submit_initCalled (s : State) (ws : List Word) : (submit ws s).initCalled = s.initCalled := rfl
@[simp] theorem submit_initState (s : State) (ws : List Word) : (submit ws s).initState = s.initState := rfl
@[simp] theorem submit_fault (s : State) (ws : List Word) : (submit ws s).fault = s.fault := rfl
@[simp] theorem submit_trace (s : State) (ws : List Word) : (submit ws s).trace = s.trace := rfl
@[simp] theorem submit_txn (s : State) (ws : List Word) : (submit ws s).txn = s.txn := rfl
@[simp] theorem submit_pc (s : State) (ws : List Word) : (submit ws s).pc = s.pc := rfl
@[simp] theorem submit_syncLost (s : State) (ws : List Word) : (submit ws s).syncLost = s.syncLost := rfl
@[simp] theorem submit_words (s : State) (ws : List Word) : (submit ws s).words = s.words ++ ws := rfl
@[simp] theorem submit_responses (s : State) (ws : List Word) : (submit ws s).responses = s.responses := rfl
@[simp] theorem submit_outcomes (s : State) (ws : List Word) : (submit ws s).outcomes = s.outcomes := rfl
@[simp] theorem submit_latch (s : State) (ws : List Word) : (submit ws s).latch = s.latch := rfl
@[simp] theorem submit_strobes (s : State) (ws : List Word) : (submit ws s).strobes = s.strobes := rfl

@[simp] theorem supply_cfg (s : State) (os : List TxOutcome) : (supply os s).cfg = s.cfg := rfl
@[simp] theorem supply_masks (s : State) (os : List TxOutcome) : (supply os s).masks = s.masks := rfl
@[simp] theorem supply_dfun (s : State) (os : List TxOutcome) : (supply os s).dfun = s.dfun := rfl
@[simp] theorem supply_dctl (s : State) (os : List TxOutcome) : (supply os s).dctl = s.dctl := rfl
@[simp] theorem supply_dmode (s : State) (os : List TxOutcome) : (supply os s).dmode = s.dmode := rfl
@[simp] theorem supply_bl (s : State) (os : List TxOutcome) : (supply os s).bl = s.bl := rfl
@[simp] theorem supply_initCalled (s : State) (os : List TxOutcome) : (supply os s).initCalled = s.initCalled := rfl
@[simp] theorem supply_initState (s : State) (os : List TxOutcome) : (supply os s).initState = s.initState := rfl
@[simp] theorem supply_fault (s : State) (os : List TxOutcome) : (supply os s).fault = s.fault := rfl
@[simp] theorem supply_trace (s : State) (os : List TxOutcome) : (supply os s).trace = s.trace := rfl
@[simp] theorem supply_txn (s : State) (os : List TxOutcome) : (supply os s).txn = s.txn := rfl
@[simp] theorem supply_pc (s : State) (os : List TxOutcome) : (supply os s).pc = s.pc := rfl
@[simp] theorem supply_syncLost (s : State) (os : List TxOutcome) : (supply os s).syncLost = s.syncLost := rfl
@[simp] theorem supply_words (s : State) (os : List TxOutcome) : (supply os s).words = s.words := rfl
@[simp] theorem supply_responses (s : State) (os : List TxOutcome) : (supply os s).responses = s.responses := rfl
@[simp] theorem supply_outcomes (s : State) (os : List TxOutcome) : (supply os s).outcomes = s.outcomes ++ os := rfl
@[simp] theorem supply_latch (s : State) (os : List TxOutcome) : (supply os s).latch = s.latch := rfl
@[simp] theorem supply_strobes (s : State) (os : List TxOutcome) : (supply os s).strobes = s.strobes := rfl

@[simp] theorem endInit_cfg (ok : Bool) (s : State) : (endInit ok s).cfg = s.cfg := by cases ok <;> rfl
@[simp] theorem endInit_masks (ok : Bool) (s : State) : (endInit ok s).masks = s.masks := by cases ok <;> rfl
@[simp] theorem endInit_dfun (ok : Bool) (s : State) : (endInit ok s).dfun = s.dfun := by cases ok <;> rfl
@[simp] theorem endInit_dctl (ok : Bool) (s : State) : (endInit ok s).dctl = s.dctl := by cases ok <;> rfl
@[simp] theorem endInit_dmode (ok : Bool) (s : State) : (endInit ok s).dmode = s.dmode := by cases ok <;> rfl
@[simp] theorem endInit_bl (ok : Bool) (s : State) : (endInit ok s).bl = s.bl := by cases ok <;> rfl
@[simp] theorem endInit_initCalled (ok : Bool) (s : State) : (endInit ok s).initCalled = s.initCalled := by cases ok <;> rfl
@[simp] theorem endInit_initState (ok : Bool) (s : State) : (endInit ok s).initState = if ok then .ready else .unpowered := by cases ok <;> rfl
@[simp] theorem endInit_fault (ok : Bool) (s : State) : (endInit ok s).fault = s.fault := by cases ok <;> rfl
@[simp] theorem endInit_trace (ok : Bool) (s : State) : (endInit ok s).trace = s.trace := by cases ok <;> rfl
@[simp] theorem endInit_txn (ok : Bool) (s : State) : (endInit ok s).txn = s.txn := by cases ok <;> rfl
@[simp] theorem endInit_pc (ok : Bool) (s : State) : (endInit ok s).pc = s.pc := by cases ok <;> rfl
@[simp] theorem endInit_syncLost (ok : Bool) (s : State) : (endInit ok s).syncLost = if ok then false else s.syncLost := by cases ok <;> rfl
@[simp] theorem endInit_words (ok : Bool) (s : State) : (endInit ok s).words = s.words := by cases ok <;> rfl
@[simp] theorem endInit_responses (ok : Bool) (s : State) : (endInit ok s).responses = s.responses := by cases ok <;> rfl
@[simp] theorem endInit_outcomes (ok : Bool) (s : State) : (endInit ok s).outcomes = s.outcomes := by cases ok <;> rfl
@[simp] theorem endInit_latch (ok : Bool) (s : State) : (endInit ok s).latch = s.latch := by cases ok <;> rfl
@[simp] theorem endInit_strobes (ok : Bool) (s : State) : (endInit ok s).strobes = s.strobes := by cases ok <;> rfl

@[simp] theorem i2cWrite_cfg (a : BusAddr) (b : Byte) (s : State) : (i2cWrite a b s).2.cfg = s.cfg := rfl
@[simp] theorem i2cWrite_masks (a : BusAddr) (b : Byte) (s : State) : (i2cWrite a b s).2.masks = s.masks := rfl
@[simp] theorem i2cWrite_dfun (a : BusAddr) (b : Byte) (s : State) : (i2cWrite a b s).2.dfun = s.dfun := rfl
@[simp] theorem i2cWrite_dctl (a : BusAddr) (b : Byte) (s : State) : (i2cWrite a b s).2.dctl = s.dctl := rfl
@[simp] theorem i2cWrite_dmode (a : BusAddr) (b : Byte) (s : State) : (i2cWrite a b s).2.dmode = s.dmode := rfl
@[simp] theorem i2cWrite_bl (a : BusAddr) (b : Byte) (s : State) : (i2cWrite a b s).2.bl = s.bl := rfl
@[simp] theorem i2cWrite_initCalled (a : BusAddr) (b : Byte) (s : State) : (i2cWrite a b s).2.initCalled = s.initCalled := rfl
@[simp] theorem i2cWrite_initState (a : BusAddr) (b : Byte) (s : State) : (i2cWrite a b s).2.initState = s.initState := rfl
@[simp] theorem i2cWrite_fault (a : BusAddr) (b : Byte) (s : State) : (i2cWrite a b s).2.fault = s.fault := rfl
@[simp] theorem i2cWrite_trace (a : BusAddr) (b : Byte) (s : State) : (i2cWrite a b s).2.trace = s.trace ++ [txEvent a b (s.omega s.txn)] := rfl
@[simp] theorem i2cWrite_txn (a : BusAddr) (b : Byte) (s : State) : (i2cWrite a b s).2.txn = s.txn + 1 := rfl
@[simp] theorem i2cWrite_pc (a : BusAddr) (b : Byte) (s : State) : (i2cWrite a b s).2.pc = s.pc := rfl
@[simp] theorem i2cWrite_syncLost (a : BusAddr) (b : Byte) (s : State) : (i2cWrite a b s).2.syncLost = (s.syncLost || !txOk (s.omega s.txn)) := rfl
@[simp] theorem i2cWrite_words (a : BusAddr) (b : Byte) (s : State) : (i2cWrite a b s).2.words = s.words := rfl
@[simp] theorem i2cWrite_responses (a : BusAddr) (b : Byte) (s : State) : (i2cWrite a b s).2.responses = s.responses := rfl
@[simp] theorem i2cWrite_outcomes (a : BusAddr) (b : Byte) (s : State) : (i2cWrite a b s).2.outcomes = s.outcomes := rfl
@[simp] theorem i2cWrite_latch (a : BusAddr) (b : Byte) (s : State) : (i2cWrite a b s).2.latch = latchAfter (s.omega s.txn) b s.latch := rfl
@[simp] theorem i2cWrite_strobes (a : BusAddr) (b : Byte) (s : State) : (i2cWrite a b s).2.strobes = s.strobes ++ strobeOf s.masks s.latch (latchAfter (s.omega s.txn) b s.latch) := rfl

@[simp] theorem i2cWrite_ok (a : BusAddr) (b : Byte) (s : State) : (i2cWrite a b s).1 = txOk (s.omega s.txn) := rfl

end Sys2Proof.Machine
end

