-- ==== Sys2Proof/Laws/Ops.lean ====
section
/-! SUPPORT. What the shared operations can do, said once: a plan's frame, its emission (R34, R92), its latch and strobes, and
what the checks before a request let through (R83, R145). -/

namespace Sys2Proof.Machine

/-! ## What a plan leaves unchanged -/

/-- The fields no item of a plan writes. -/
structure PlanFrame (s t : State) : Prop where
  cfg : t.cfg = s.cfg
  masks : t.masks = s.masks
  bl : t.bl = s.bl
  initCalled : t.initCalled = s.initCalled
  fault : t.fault = s.fault
  pc : t.pc = s.pc
  words : t.words = s.words
  responses : t.responses = s.responses
  outcomes : t.outcomes = s.outcomes

theorem PlanFrame.trans {s t u : State} (h : PlanFrame s t) (k : PlanFrame t u) : PlanFrame s u :=
  ⟨k.cfg.trans h.cfg, k.masks.trans h.masks, k.bl.trans h.bl, k.initCalled.trans h.initCalled, k.fault.trans h.fault,
    k.pc.trans h.pc, k.words.trans h.words, k.responses.trans h.responses, k.outcomes.trans h.outcomes⟩

theorem omega_of_outcomes {s t : State} (h : t.outcomes = s.outcomes) : t.omega = s.omega := by
  funext n; simp only [State.omega, h]

theorem runAct_frame (a : Act) (s : State) : PlanFrame s (runAct a s).2 := by
  cases a <;> exact ⟨rfl, rfl, rfl, rfl, rfl, rfl, rfl, rfl, rfl⟩

theorem runPlan_nil (s : State) : runPlan [] s = (true, s) := rfl

theorem runPlan_cons (a : Act) (as : Plan) (s : State) :
    runPlan (a :: as) s = if (runAct a s).1 then runPlan as (runAct a s).2 else (false, (runAct a s).2) := rfl

theorem runPlan_frame (plan : Plan) : ∀ s : State, PlanFrame s (runPlan plan s).2 := by
  induction plan with
  | nil => intro s; exact ⟨rfl, rfl, rfl, rfl, rfl, rfl, rfl, rfl, rfl⟩
  | cons a as ih =>
    intro s
    rw [runPlan_cons]
    split
    · exact (runAct_frame a s).trans (ih _)
    · exact runAct_frame a s

@[simp] theorem runPlan_cfg (plan : Plan) (s : State) : (runPlan plan s).2.cfg = s.cfg := (runPlan_frame plan s).cfg
@[simp] theorem runPlan_masks (plan : Plan) (s : State) : (runPlan plan s).2.masks = s.masks := (runPlan_frame plan s).masks
@[simp] theorem runPlan_bl (plan : Plan) (s : State) : (runPlan plan s).2.bl = s.bl := (runPlan_frame plan s).bl
@[simp] theorem runPlan_initCalled (plan : Plan) (s : State) : (runPlan plan s).2.initCalled = s.initCalled :=
  (runPlan_frame plan s).initCalled
@[simp] theorem runPlan_fault (plan : Plan) (s : State) : (runPlan plan s).2.fault = s.fault := (runPlan_frame plan s).fault
@[simp] theorem runPlan_pc (plan : Plan) (s : State) : (runPlan plan s).2.pc = s.pc := (runPlan_frame plan s).pc
@[simp] theorem runPlan_words (plan : Plan) (s : State) : (runPlan plan s).2.words = s.words := (runPlan_frame plan s).words
@[simp] theorem runPlan_responses (plan : Plan) (s : State) : (runPlan plan s).2.responses = s.responses :=
  (runPlan_frame plan s).responses
@[simp] theorem runPlan_outcomes (plan : Plan) (s : State) : (runPlan plan s).2.outcomes = s.outcomes :=
  (runPlan_frame plan s).outcomes
@[simp] theorem runPlan_omega (plan : Plan) (s : State) : (runPlan plan s).2.omega = s.omega :=
  omega_of_outcomes (runPlan_outcomes plan s)

/-- A plan in two parts runs its second part only if the first was ok (R17). -/
theorem runPlan_append (as bs : Plan) : ∀ s : State,
    runPlan (as ++ bs) s = if (runPlan as s).1 then runPlan bs (runPlan as s).2 else runPlan as s := by
  induction as with
  | nil => intro s; simp [runPlan_nil]
  | cons a as ih =>
    intro s
    rw [List.cons_append, runPlan_cons, runPlan_cons]
    cases h : (runAct a s).1 <;> simp [ih]

/-! ## Plans that write no register -/

/-- The item emits and writes nothing else of the block. -/
def Act.quiet : Act → Bool
  | .busBegin | .out _ | .wait _ => true
  | _ => false

theorem runAct_quiet {a : Act} (h : a.quiet = true) (s : State) :
    (runAct a s).2.dfun = s.dfun ∧ (runAct a s).2.dctl = s.dctl ∧ (runAct a s).2.dmode = s.dmode ∧
      (runAct a s).2.initState = s.initState := by
  cases a <;> first | exact ⟨rfl, rfl, rfl, rfl⟩ | simp [Act.quiet] at h

theorem runPlan_quiet {plan : Plan} : ∀ {s : State}, plan.all Act.quiet = true →
    (runPlan plan s).2.dfun = s.dfun ∧ (runPlan plan s).2.dctl = s.dctl ∧ (runPlan plan s).2.dmode = s.dmode ∧
      (runPlan plan s).2.initState = s.initState := by
  induction plan with
  | nil => intro s _; exact ⟨rfl, rfl, rfl, rfl⟩
  | cons a as ih =>
    intro s h
    rw [List.all_cons, Bool.and_eq_true] at h
    have ha := runAct_quiet h.1 s
    rw [runPlan_cons]
    split
    · have hr := ih (s := (runAct a s).2) h.2
      exact ⟨hr.1.trans ha.1, hr.2.1.trans ha.2.1, hr.2.2.1.trans ha.2.2.1, hr.2.2.2.trans ha.2.2.2⟩
    · exact ha

theorem write4bits_quiet (p : Masks) (n : Byte) : (write4bits p n).all Act.quiet = true := rfl

theorem send_quiet (p : Masks) (v : Byte) (m : Mode) : (send p v m).all Act.quiet = true := rfl

theorem sendAll_quiet (p : Masks) (bs : List Byte) : (sendAll p bs).all Act.quiet = true := by
  induction bs with
  | nil => rfl
  | cons b bs ih => rw [sendAll, List.all_append, send_quiet, ih]; rfl

/-! ## Traces -/

@[simp] theorem txCount_append (es fs : List Event) : txCount (es ++ fs) = txCount es + txCount fs := by
  induction es with
  | nil => simp [txCount]
  | cons e es ih => cases e <;> simp [txCount, ih, Nat.add_assoc]

/-! ## What a plan emits -/

/-- The expansion of a plan as the bus sees it, with the backlight bit `b` packed. -/
def outsOf (b : Byte) : Plan → List Out
  | [] => []
  | .busBegin :: as => .busBegin :: outsOf b as
  | .out d :: as => .byte (d ||| b) :: outsOf b as
  | .wait t :: as => .wait t :: outsOf b as
  | .enter _ :: as => outsOf b as
  | .setDfun _ :: as => outsOf b as
  | .setDctl _ :: as => outsOf b as
  | .setDmode _ :: as => outsOf b as

theorem outsOf_append (b : Byte) (as bs : Plan) : outsOf b (as ++ bs) = outsOf b as ++ outsOf b bs := by
  induction as with
  | nil => rfl
  | cons a as ih => cases a <;> simp [outsOf, ih]

theorem emission_append (a : BusAddr) (om : Nat → TxOutcome) (xs ys : List Out) : ∀ n : Nat,
    emission a om n (xs ++ ys) =
      if emissionOk om n xs then emission a om n xs ++ emission a om (n + txCount (emission a om n xs)) ys
      else emission a om n xs := by
  induction xs with
  | nil => intro n; simp [emission, emissionOk, txCount]
  | cons x xs ih =>
    intro n
    cases x with
    | busBegin => simp [emission, emissionOk, ih, txCount]; split <;> simp_all
    | wait t => simp [emission, emissionOk, ih, txCount]; split <;> simp_all
    | byte b =>
      by_cases h : txOk (om n) = true
      · simp [emission, emissionOk, ih, txCount, h, Nat.add_assoc]
        split <;> simp_all
      · simp [emission, emissionOk, h]

theorem emissionOk_append (a : BusAddr) (om : Nat → TxOutcome) (xs ys : List Out) : ∀ n : Nat,
    emissionOk om n (xs ++ ys) =
      (emissionOk om n xs && emissionOk om (n + txCount (emission a om n xs)) ys) := by
  induction xs with
  | nil => intro n; simp [emission, emissionOk, txCount]
  | cons x xs ih =>
    intro n
    cases x with
    | busBegin => simp [emission, emissionOk, ih, txCount]
    | wait t => simp [emission, emissionOk, ih, txCount]
    | byte b =>
      by_cases h : txOk (om n) = true
      · simp [emission, emissionOk, ih, txCount, h, Nat.add_assoc]
      · simp [emissionOk, h]

/-- The one spec of a plan's emission (R34, R92, R93): its result, trace, transaction count and `sync_lost` are those of its
expansion cut at the first failed transaction. -/
theorem runPlan_emission (plan : Plan) : ∀ s : State,
    let xs := outsOf (backlightBit s.masks s.bl) plan
    (runPlan plan s).1 = emissionOk s.omega s.txn xs ∧ Emitted s (runPlan plan s).2 xs := by
  induction plan with
  | nil => intro s; simp [runPlan, outsOf, Emitted, emission, emissionOk, txCount]
  | cons a as ih =>
    intro s
    have quiet : ∀ t : State, (runAct a s) = (true, t) → t.outcomes = s.outcomes → t.masks = s.masks → t.bl = s.bl →
        t.cfg = s.cfg → runPlan (a :: as) s = runPlan as t ∧
          outsOf (backlightBit t.masks t.bl) as = outsOf (backlightBit s.masks s.bl) as ∧ t.omega = s.omega := by
      intro t ht ho hm hb _
      refine ⟨by rw [runPlan_cons, ht]; rfl, by rw [hm, hb], omega_of_outcomes ho⟩
    cases a with
    | out d =>
      have h := ih (runAct (.out d) s).2
      have ho : (runAct (.out d) s).2.omega = s.omega := omega_of_outcomes rfl
      by_cases hk : txOk (s.omega s.txn) = true
      · have e : runPlan (.out d :: as) s = runPlan as (runAct (.out d) s).2 := by
          rw [runPlan_cons, if_pos (show (runAct (.out d) s).1 = true from hk)]
        rw [e]
        simp only [Emitted, ho] at h ⊢
        simp only [runAct, expanderWrite, i2cWrite_masks, i2cWrite_bl, i2cWrite_txn, i2cWrite_trace, i2cWrite_cfg,
          i2cWrite_syncLost, hk] at h ⊢
        simp [outsOf, emission, emissionOk, hk, h, txEvent, txCount, Nat.add_assoc]
      · have e : runPlan (.out d :: as) s = (false, (runAct (.out d) s).2) := by
          rw [runPlan_cons, if_neg (show ¬(runAct (.out d) s).1 = true from hk)]
        rw [e]
        simp [outsOf, emission, emissionOk, hk, Emitted, runAct, expanderWrite, txEvent, txCount]
    | busBegin =>
      obtain ⟨e, eo, om⟩ := quiet (s.emit .busBegin) rfl rfl rfl rfl rfl
      have h := ih (s.emit .busBegin)
      rw [e]
      simp only [Emitted, om, eo] at h ⊢
      simp [outsOf, emission, emissionOk, h, txCount]
    | wait t =>
      obtain ⟨e, eo, om⟩ := quiet (s.emit (.wait t)) rfl rfl rfl rfl rfl
      have h := ih (s.emit (.wait t))
      rw [e]
      simp only [Emitted, om, eo] at h ⊢
      simp [outsOf, emission, emissionOk, h, txCount]
    | enter q =>
      obtain ⟨e, eo, om⟩ := quiet (s.enter q) rfl rfl rfl rfl rfl
      have h := ih (s.enter q)
      rw [e]
      simpa [Emitted, om, eo, outsOf] using h
    | setDfun v =>
      obtain ⟨e, eo, om⟩ := quiet (s.setDfun v) rfl rfl rfl rfl rfl
      have h := ih (s.setDfun v)
      rw [e]
      simpa [Emitted, om, eo, outsOf] using h
    | setDctl v =>
      obtain ⟨e, eo, om⟩ := quiet (s.setDctl v) rfl rfl rfl rfl rfl
      have h := ih (s.setDctl v)
      rw [e]
      simpa [Emitted, om, eo, outsOf] using h
    | setDmode v =>
      obtain ⟨e, eo, om⟩ := quiet (s.setDmode v) rfl rfl rfl rfl rfl
      have h := ih (s.setDmode v)
      rw [e]
      simpa [Emitted, om, eo, outsOf] using h

theorem outsOf_write4bits (p : Masks) (b n : Byte) : outsOf b (write4bits p n) = nibbleOuts p b n := rfl

theorem outsOf_sendCmd (p : Masks) (b v : Byte) : outsOf b (send p v .cmd) = byteOuts p b v 0#8 := rfl

theorem outsOf_sendData (p : Masks) (b v : Byte) : outsOf b (send p v .data) = byteOuts p b v p.rs := rfl

theorem backlightBit_eq_blBit (s : State) : backlightBit s.masks s.bl = blBit s := rfl

theorem outsOf_sendAll (s : State) (bs : List Byte) : outsOf (blBit s) (sendAll s.masks bs) = textOuts s bs := by
  induction bs with
  | nil => rfl
  | cons b bs ih => rw [sendAll, outsOf_append, outsOf_sendData, ih]; rfl

/-! ## Answers -/

theorem completedWord_eq (v : BitVec 16) : completedWord v = BitVec.setWidth 32 v := by
  apply BitVec.eq_of_toNat_eq
  have h : v.toNat < 2 ^ 32 := Nat.lt_of_lt_of_le v.isLt (by decide)
  simp only [completedWord, BitVec.toNat_append, BitVec.toNat_setWidth, Nat.mod_eq_of_lt h]
  simp

theorem raise_eq_Faulted (f : FaultCode) (s : State) : raise f s = Faulted s f (codeOf f) := by
  have : ∀ c : Byte, faultedWord c = 0x40000000#32 ||| BitVec.setWidth 32 c := by decide
  simp [raise, Faulted, this]

/-! ## The checks before a request -/

theorem unlessHalted_none {s : State} (h : s.fault = none) (run : State → Host.Outcome State Fault Refusal) :
    unlessHalted s run = run s := by simp [unlessHalted, h]

theorem unlessHalted_some {s : State} {f : FaultCode} (h : s.fault = some f)
    (run : State → Host.Outcome State Fault Refusal) : unlessHalted s run = .fault (.halted f) := by simp [unlessHalted, h]

theorem unlessUninitialized_accepts {s : State} (h : Accepts s) (op : Byte)
    (run : State → Host.Outcome State Fault Refusal) : unlessUninitialized op s run = run s := by
  simp [unlessUninitialized, unlessHalted, h.1, h.2]

theorem unlessUninitialized_uncalled {s : State} (hf : s.fault = none) (hi : s.initCalled = false) (op : Byte)
    (run : State → Host.Outcome State Fault Refusal) :
    unlessUninitialized op s run = .next (Faulted s (.notInitialized op) 0x02#8) := by
  simp [unlessUninitialized, unlessHalted, hf, hi, raise_eq_Faulted, codeOf]

/-- What a request other than INIT can come to (R145): halted, `NotInitialized`, or its own rule in an accepting state. -/
theorem unlessUninitialized_cases (op : Byte) (s : State) (run : State → Host.Outcome State Fault Refusal) :
    (∃ f, s.fault = some f ∧ unlessUninitialized op s run = .fault (.halted f)) ∨
    (s.fault = none ∧ s.initCalled = false ∧ unlessUninitialized op s run = .next (raise (.notInitialized op) s)) ∨
    (Accepts s ∧ unlessUninitialized op s run = run s) := by
  rcases hf : s.fault with _ | f
  · rcases hi : s.initCalled with _ | _
    · exact .inr (.inl ⟨rfl, rfl, by simp [unlessUninitialized, unlessHalted, hf, hi]⟩)
    · exact .inr (.inr ⟨⟨hf, hi⟩, by simp [unlessUninitialized, unlessHalted, hf, hi]⟩)
  · exact .inl ⟨f, rfl, by simp [unlessUninitialized, unlessHalted, hf]⟩

/-- A Bool request of a plan that writes no register transmits the plan's expansion (R39, R92). -/
theorem boolRequest_transmits {plan : Plan} (hq : plan.all Act.quiet = true) {s : State} (hf : s.fault = none) :
    Transmits s (boolRequest 1 plan s) (outsOf (blBit s) plan) := by
  have h := runPlan_emission plan s
  have q := runPlan_quiet (s := s) hq
  rw [backlightBit_eq_blBit] at h
  obtain ⟨h1, h2, h3, h4⟩ := h
  refine ⟨⟨h2, h3, h4⟩, ⟨?_, ?_, ?_⟩, ⟨?_, ?_, ?_, ?_⟩, ⟨q.1, q.2.1, q.2.2.1⟩, ⟨?_, q.2.2.2⟩, ?_⟩ <;>
    simp [boolRequest, boolVal, h1, completedWord_eq, hf]

end Sys2Proof.Machine
end

