-- ==== Sys2Proof/Laws/Exec.lean ====
section
/-! SUPPORT. What an instruction can do, said once: it is halted, takes one fault, or runs its expansion from a prepared state
and is answered. Every whole-machine rule is read off `exec_cases`. -/

namespace Sys2Proof.Machine

/-- The state an instruction's expansion starts from: the registers it writes before any event. -/
def setup : Instr → State → State
  | .init, s => beginInit s
  | .displayOn, s => s.setDctl (setBits displayOnBit (s.dctl.getD 0#8))
  | .displayOff, s => s.setDctl (clearBits displayOnBit (s.dctl.getD 0#8))
  | .cursorOn, s => s.setDctl (setBits cursorOnBit (s.dctl.getD 0#8))
  | .cursorOff, s => s.setDctl (clearBits cursorOnBit (s.dctl.getD 0#8))
  | .blinkOn, s => s.setDctl (setBits blinkOnBit (s.dctl.getD 0#8))
  | .blinkOff, s => s.setDctl (clearBits blinkOnBit (s.dctl.getD 0#8))
  | .leftToRight, s => s.setDmode (setBits entryLeft (s.dmode.getD 0#8))
  | .rightToLeft, s => s.setDmode (clearBits entryLeft (s.dmode.getD 0#8))
  | .autoscrollOn, s => s.setDmode (setBits entryShift (s.dmode.getD 0#8))
  | .autoscrollOff, s => s.setDmode (clearBits entryShift (s.dmode.getD 0#8))
  | .backlightOn, s => s.setBl true
  | .backlightOff, s => s.setBl false
  | _, s => s

/-- The expansion of an instruction (R34). -/
def expansion (i : Instr) (s : State) : Plan :=
  match i with
  | .init => initPlan s.masks s.cfg
  | .clear => send s.masks cmdClear .cmd ++ [.wait tClearHome]
  | .home => send s.masks cmdHome .cmd ++ [.wait tClearHome]
  | .setCursor col row => send s.masks (cmdSetDdram (ddramAddress col ((rowOffset (clampRow s.cfg.rows row)).getD 0#8))) .cmd
  | .displayOn => send s.masks (cmdDisplayControl ((setup .displayOn s).dctl.getD 0#8)) .cmd
  | .displayOff => send s.masks (cmdDisplayControl ((setup .displayOff s).dctl.getD 0#8)) .cmd
  | .cursorOn => send s.masks (cmdDisplayControl ((setup .cursorOn s).dctl.getD 0#8)) .cmd
  | .cursorOff => send s.masks (cmdDisplayControl ((setup .cursorOff s).dctl.getD 0#8)) .cmd
  | .blinkOn => send s.masks (cmdDisplayControl ((setup .blinkOn s).dctl.getD 0#8)) .cmd
  | .blinkOff => send s.masks (cmdDisplayControl ((setup .blinkOff s).dctl.getD 0#8)) .cmd
  | .scrollLeft => send s.masks (cmdShift (displayMove ||| moveLeft)) .cmd
  | .scrollRight => send s.masks (cmdShift (displayMove ||| moveRight)) .cmd
  | .leftToRight => send s.masks (cmdEntryMode ((setup .leftToRight s).dmode.getD 0#8)) .cmd
  | .rightToLeft => send s.masks (cmdEntryMode ((setup .rightToLeft s).dmode.getD 0#8)) .cmd
  | .autoscrollOn => send s.masks (cmdEntryMode ((setup .autoscrollOn s).dmode.getD 0#8)) .cmd
  | .autoscrollOff => send s.masks (cmdEntryMode ((setup .autoscrollOff s).dmode.getD 0#8)) .cmd
  | .createChar slot glyph => send s.masks (cmdSetCgram (cgramAddress slot)) .cmd ++ sendAll s.masks glyph.rows
  | .backlightOn => [.out 0x00#8]
  | .backlightOff => [.out 0x00#8]
  | .getBacklight => []
  | .command v => send s.masks v .cmd
  | .write v => send s.masks v .data
  | .printstr text => sendAll s.masks text
  | .lcdClear => send s.masks (lcdClearByte) .cmd
  | .lcdHome x => send s.masks (lcdHomeByte x) .cmd
  | .lcdEntryMode id sh => send s.masks (lcdEntryModeByte id sh) .cmd
  | .lcdDisplayControl d c b => send s.masks (lcdDisplayControlByte d c b) .cmd
  | .lcdShift sc rl x => send s.masks (lcdShiftByte sc rl x) .cmd
  | .lcdFunctionSet dl n f x => send s.masks (lcdFunctionSetByte dl n f x) .cmd
  | .lcdSetCgram a => send s.masks (lcdSetCgramByte a) .cmd
  | .lcdSetDdram a => send s.masks (lcdSetDdramByte a) .cmd

/-- What INIT's outcome adds after its expansion (R108, R109). -/
def finish : Instr → Bool → State → State
  | .init, ok, s => endInit ok s
  | _, _, s => s

/-- The result an instruction answers (R74). -/
def resultOf (i : Instr) (s : State) (ok : Bool) : BitVec 16 :=
  match i with
  | .getBacklight => boolVal s.bl
  | .printstr text => (printLoop s.masks text 0#16 s).1
  | _ => boolVal ok

/-- SET_CURSOR's own fault (R143). -/
def rowFault (s : State) (row : Byte) : Option FaultCode :=
  if (rowOffset (clampRow s.cfg.rows row)).isNone then some (.rowIndexOutOfRange (clampRow s.cfg.rows row)) else none

/-- The own fault of a display-control toggle (R142). -/
def dctlFault (s : State) : Option FaultCode := if s.dctl.isNone then some (.unwrittenShadow .dctl) else none

/-- The own fault of an entry-mode toggle (R142). -/
def dmodeFault (s : State) : Option FaultCode := if s.dmode.isNone then some (.unwrittenShadow .dmode) else none

/-- The fault an instruction's own rule raises in an accepting state, if any (R142, R143). -/
def ownFault : Instr → State → Option FaultCode
  | .setCursor _ row, s => rowFault s row
  | .displayOn, s => dctlFault s
  | .displayOff, s => dctlFault s
  | .cursorOn, s => dctlFault s
  | .cursorOff, s => dctlFault s
  | .blinkOn, s => dctlFault s
  | .blinkOff, s => dctlFault s
  | .leftToRight, s => dmodeFault s
  | .rightToLeft, s => dmodeFault s
  | .autoscrollOn, s => dmodeFault s
  | .autoscrollOff, s => dmodeFault s
  | .init, _ => none
  | .clear, _ => none
  | .home, _ => none
  | .scrollLeft, _ => none
  | .scrollRight, _ => none
  | .createChar _ _, _ => none
  | .backlightOn, _ => none
  | .backlightOff, _ => none
  | .getBacklight, _ => none
  | .command _, _ => none
  | .write _, _ => none
  | .printstr _, _ => none
  | .lcdClear, _ => none
  | .lcdHome _, _ => none
  | .lcdEntryMode _ _, _ => none
  | .lcdDisplayControl _ _ _, _ => none
  | .lcdShift _ _ _, _ => none
  | .lcdFunctionSet _ _ _ _, _ => none
  | .lcdSetCgram _, _ => none
  | .lcdSetDdram _, _ => none

/-- The state after an instruction that runs. -/
def ran (i : Instr) (s : State) : State :=
  complete (lengthOf i) (resultOf i s (runPlan (expansion i s) (setup i s)).1)
    (finish i (runPlan (expansion i s) (setup i s)).1 (runPlan (expansion i s) (setup i s)).2)

theorem printLoop_state (p : Masks) (bs : List Byte) : ∀ (k : BitVec 16) (s : State),
    (printLoop p bs k s).2 = (runPlan (sendAll p bs) s).2 := by
  induction bs with
  | nil => intro k s; rfl
  | cons b bs ih =>
    intro k s
    rw [printLoop, sendAll, runPlan_append]
    split
    · exact ih _ _
    · rfl

theorem planRequest_accepts {s : State} (h : Accepts s) (i : Instr) (plan : Plan) :
    planRequest i plan s = .next (boolRequest (lengthOf i) plan s) := unlessUninitialized_accepts h _ _

theorem commandRequest_accepts {s : State} (h : Accepts s) (i : Instr) (v : Byte) :
    commandRequest i v s = .next (boolRequest (lengthOf i) (send s.masks v .cmd) s) := planRequest_accepts h _ _

theorem backlightRequest_accepts {s : State} (h : Accepts s) (i : Instr) (b : Bool) :
    backlightRequest i b s = .next (boolRequest (lengthOf i) [.out 0x00#8] (s.setBl b)) :=
  unlessUninitialized_accepts h _ _

theorem toggleDctl_accepts {s : State} (h : Accepts s) (i : Instr) (f : Byte → Byte) :
    toggleDctl i f s = .next (if s.dctl.isNone then raise (.unwrittenShadow .dctl) s else
      boolRequest (lengthOf i) (send s.masks (cmdDisplayControl (f (s.dctl.getD 0#8))) .cmd)
        (s.setDctl (f (s.dctl.getD 0#8)))) := by
  rw [toggleDctl, unlessUninitialized_accepts h]
  rcases s.dctl with _ | c <;> rfl

theorem toggleDmode_accepts {s : State} (h : Accepts s) (i : Instr) (f : Byte → Byte) :
    toggleDmode i f s = .next (if s.dmode.isNone then raise (.unwrittenShadow .dmode) s else
      boolRequest (lengthOf i) (send s.masks (cmdEntryMode (f (s.dmode.getD 0#8))) .cmd)
        (s.setDmode (f (s.dmode.getD 0#8)))) := by
  rw [toggleDmode, unlessUninitialized_accepts h]
  rcases s.dmode with _ | m <;> rfl

theorem execSetCursor_accepts {s : State} (h : Accepts s) (col row : Byte) :
    execSetCursor col row s = .next (if (rowOffset (clampRow s.cfg.rows row)).isNone
      then raise (.rowIndexOutOfRange (clampRow s.cfg.rows row)) s
      else boolRequest 1
        (send s.masks (cmdSetDdram (ddramAddress col ((rowOffset (clampRow s.cfg.rows row)).getD 0#8))) .cmd) s) := by
  rw [execSetCursor, unlessUninitialized_accepts h]
  cases rowOffset (clampRow s.cfg.rows row) <;> rfl

/-- PRINTSTR's count and the state its loop leaves. -/
theorem execPrintstr_accepts {s : State} (h : Accepts s) (text : List Byte) :
    execPrintstr text s = .next (complete (lengthOf (.printstr text)) (printLoop s.masks text 0#16 s).1
      (runPlan (sendAll s.masks text) s).2) := by
  rw [execPrintstr, unlessUninitialized_accepts h, ← printLoop_state s.masks text 0#16 s]

theorem execGetBacklight_accepts {s : State} (h : Accepts s) :
    execGetBacklight s = .next (complete (lengthOf .getBacklight) (boolVal s.bl) s) := unlessUninitialized_accepts h _ _

/-- The state after an instruction in an accepting state: its own fault, or its run. -/
def outcomeOf (i : Instr) (s : State) : State :=
  match ownFault i s with
  | some f => raise f s
  | none => ran i s

theorem outcomeOf_dctl {i : Instr} {s : State} (f : Byte → Byte)
    (hf : ownFault i s = if s.dctl.isNone then some (.unwrittenShadow .dctl) else none)
    (hr : ran i s = boolRequest (lengthOf i) (send s.masks (cmdDisplayControl (f (s.dctl.getD 0#8))) .cmd)
        (s.setDctl (f (s.dctl.getD 0#8)))) :
    (if s.dctl.isNone then raise (.unwrittenShadow .dctl) s else
      boolRequest (lengthOf i) (send s.masks (cmdDisplayControl (f (s.dctl.getD 0#8))) .cmd)
        (s.setDctl (f (s.dctl.getD 0#8)))) = outcomeOf i s := by
  rw [outcomeOf, hf, hr]
  cases s.dctl.isNone <;> rfl

theorem outcomeOf_dmode {i : Instr} {s : State} (f : Byte → Byte)
    (hf : ownFault i s = if s.dmode.isNone then some (.unwrittenShadow .dmode) else none)
    (hr : ran i s = boolRequest (lengthOf i) (send s.masks (cmdEntryMode (f (s.dmode.getD 0#8))) .cmd)
        (s.setDmode (f (s.dmode.getD 0#8)))) :
    (if s.dmode.isNone then raise (.unwrittenShadow .dmode) s else
      boolRequest (lengthOf i) (send s.masks (cmdEntryMode (f (s.dmode.getD 0#8))) .cmd)
        (s.setDmode (f (s.dmode.getD 0#8)))) = outcomeOf i s := by
  rw [outcomeOf, hf, hr]
  cases s.dmode.isNone <;> rfl

theorem execInit_runs {s : State} (h : s.fault = none) : execInit s = .next (ran .init s) := by
  rw [execInit, unlessHalted_none h]
  rfl

theorem exec_accepts_plan {s : State} (h : Accepts s) {i : Instr} (hx : exec i s = planRequest i (expansion i s) s)
    (hf : ownFault i s = none) (hr : ran i s = boolRequest (lengthOf i) (expansion i s) s) :
    exec i s = .next (outcomeOf i s) := by
  rw [hx, planRequest_accepts h, outcomeOf, hf, hr]

/-- One spec of `exec` in an accepting state. -/
theorem exec_accepts {s : State} (h : Accepts s) (i : Instr) : exec i s = .next (outcomeOf i s) := by
  cases i with
  | init => rw [outcomeOf, show ownFault .init s = none from rfl]; exact execInit_runs h.1
  | clear => exact exec_accepts_plan h rfl rfl rfl
  | home => exact exec_accepts_plan h rfl rfl rfl
  | setCursor col row =>
    have e : ownFault (.setCursor col row) s = if (rowOffset (clampRow s.cfg.rows row)).isNone
      then some (.rowIndexOutOfRange (clampRow s.cfg.rows row)) else none := rfl
    refine (execSetCursor_accepts h col row).trans ?_
    rw [outcomeOf, e]
    cases (rowOffset (clampRow s.cfg.rows row)).isNone <;> rfl
  | displayOn => exact (toggleDctl_accepts h _ _).trans (congrArg _ (outcomeOf_dctl (setBits displayOnBit) rfl rfl))
  | displayOff => exact (toggleDctl_accepts h _ _).trans (congrArg _ (outcomeOf_dctl (clearBits displayOnBit) rfl rfl))
  | cursorOn => exact (toggleDctl_accepts h _ _).trans (congrArg _ (outcomeOf_dctl (setBits cursorOnBit) rfl rfl))
  | cursorOff => exact (toggleDctl_accepts h _ _).trans (congrArg _ (outcomeOf_dctl (clearBits cursorOnBit) rfl rfl))
  | blinkOn => exact (toggleDctl_accepts h _ _).trans (congrArg _ (outcomeOf_dctl (setBits blinkOnBit) rfl rfl))
  | blinkOff => exact (toggleDctl_accepts h _ _).trans (congrArg _ (outcomeOf_dctl (clearBits blinkOnBit) rfl rfl))
  | leftToRight => exact (toggleDmode_accepts h _ _).trans (congrArg _ (outcomeOf_dmode (setBits entryLeft) rfl rfl))
  | rightToLeft => exact (toggleDmode_accepts h _ _).trans (congrArg _ (outcomeOf_dmode (clearBits entryLeft) rfl rfl))
  | autoscrollOn => exact (toggleDmode_accepts h _ _).trans (congrArg _ (outcomeOf_dmode (setBits entryShift) rfl rfl))
  | autoscrollOff => exact (toggleDmode_accepts h _ _).trans (congrArg _ (outcomeOf_dmode (clearBits entryShift) rfl rfl))
  | scrollLeft => exact exec_accepts_plan h rfl rfl rfl
  | scrollRight => exact exec_accepts_plan h rfl rfl rfl
  | createChar slot g => exact exec_accepts_plan h rfl rfl rfl
  | backlightOn => rw [outcomeOf]; exact backlightRequest_accepts h _ _
  | backlightOff => rw [outcomeOf]; exact backlightRequest_accepts h _ _
  | getBacklight => exact execGetBacklight_accepts h
  | command v => exact exec_accepts_plan h rfl rfl rfl
  | write v => exact exec_accepts_plan h rfl rfl rfl
  | printstr text => exact execPrintstr_accepts h text
  | lcdClear => exact exec_accepts_plan h rfl rfl rfl
  | lcdHome x => exact exec_accepts_plan h rfl rfl rfl
  | lcdEntryMode id sh => exact exec_accepts_plan h rfl rfl rfl
  | lcdDisplayControl d c b => exact exec_accepts_plan h rfl rfl rfl
  | lcdShift sc rl x => exact exec_accepts_plan h rfl rfl rfl
  | lcdFunctionSet dl n f x => exact exec_accepts_plan h rfl rfl rfl
  | lcdSetCgram a => exact exec_accepts_plan h rfl rfl rfl
  | lcdSetDdram a => exact exec_accepts_plan h rfl rfl rfl

/-- INIT runs from every state without a fault (R97). -/
theorem exec_init {s : State} (h : s.fault = none) : exec .init s = .next (ran .init s) := execInit_runs h

/-- A faulted block runs nothing (R83). -/
theorem exec_halted {s : State} {f : FaultCode} (h : s.fault = some f) (i : Instr) : exec i s = .fault (.halted f) := by
  have u : ∀ op run, unlessUninitialized op s run = .fault (.halted f) := fun op run => unlessHalted_some h _
  have p : ∀ j plan, planRequest j plan s = .fault (.halted f) := fun j plan => u _ _
  have d : ∀ j g, toggleDctl j g s = .fault (.halted f) := fun j g => u _ _
  have m : ∀ j g, toggleDmode j g s = .fault (.halted f) := fun j g => u _ _
  have b : ∀ j g, backlightRequest j g s = .fault (.halted f) := fun j g => u _ _
  cases i with
  | init => rw [exec, execInit, unlessHalted_some h]
  | clear => exact p _ _
  | home => exact p _ _
  | setCursor col row => exact (u _ _ : execSetCursor col row s = .fault (.halted f))
  | displayOn => exact d _ _
  | displayOff => exact d _ _
  | cursorOn => exact d _ _
  | cursorOff => exact d _ _
  | blinkOn => exact d _ _
  | blinkOff => exact d _ _
  | scrollLeft => exact p _ _
  | scrollRight => exact p _ _
  | leftToRight => exact m _ _
  | rightToLeft => exact m _ _
  | autoscrollOn => exact m _ _
  | autoscrollOff => exact m _ _
  | createChar slot g => exact p _ _
  | backlightOn => exact b _ _
  | backlightOff => exact b _ _
  | getBacklight => exact (u _ _ : execGetBacklight s = .fault (.halted f))
  | command v => exact p _ _
  | write v => exact p _ _
  | printstr text => exact (u _ _ : execPrintstr text s = .fault (.halted f))
  | lcdClear => exact p _ _
  | lcdHome x => exact p _ _
  | lcdEntryMode id sh => exact p _ _
  | lcdDisplayControl d c b => exact p _ _
  | lcdShift sc rl x => exact p _ _
  | lcdFunctionSet dl n f x => exact p _ _
  | lcdSetCgram a => exact p _ _
  | lcdSetDdram a => exact p _ _

/-- Before INIT only INIT runs (R141). -/
theorem exec_uncalled {s : State} (hf : s.fault = none) (hi : s.initCalled = false) {i : Instr} (h : i ≠ .init) :
    exec i s = .next (Faulted s (.notInitialized (opcodeOf i)) 0x02#8) := by
  have p := fun j plan => (unlessUninitialized_uncalled hf hi (opcodeOf j) _ : planRequest j plan s = _)
  have d := fun j f => (unlessUninitialized_uncalled hf hi (opcodeOf j) _ : toggleDctl j f s = _)
  have m := fun j f => (unlessUninitialized_uncalled hf hi (opcodeOf j) _ : toggleDmode j f s = _)
  have b := fun j f => (unlessUninitialized_uncalled hf hi (opcodeOf j) _ : backlightRequest j f s = _)
  cases i with
  | init => exact absurd rfl h
  | clear => exact p _ _
  | home => exact p _ _
  | setCursor col row => exact (unlessUninitialized_uncalled hf hi _ _ : execSetCursor col row s = _)
  | displayOn => exact d _ _
  | displayOff => exact d _ _
  | cursorOn => exact d _ _
  | cursorOff => exact d _ _
  | blinkOn => exact d _ _
  | blinkOff => exact d _ _
  | scrollLeft => exact p _ _
  | scrollRight => exact p _ _
  | leftToRight => exact m _ _
  | rightToLeft => exact m _ _
  | autoscrollOn => exact m _ _
  | autoscrollOff => exact m _ _
  | createChar slot g => exact p _ _
  | backlightOn => exact b _ _
  | backlightOff => exact b _ _
  | getBacklight => exact (unlessUninitialized_uncalled hf hi _ _ : execGetBacklight s = _)
  | command v => exact p _ _
  | write v => exact p _ _
  | printstr text => exact (unlessUninitialized_uncalled hf hi _ _ : execPrintstr text s = _)
  | lcdClear => exact p _ _
  | lcdHome x => exact p _ _
  | lcdEntryMode id sh => exact p _ _
  | lcdDisplayControl d c b => exact p _ _
  | lcdShift sc rl x => exact p _ _
  | lcdFunctionSet dl n f x => exact p _ _
  | lcdSetCgram a => exact p _ _
  | lcdSetDdram a => exact p _ _

/-- Everything an instruction can do when it answers a next state (R83, R145). -/
theorem exec_cases {i : Instr} {s t : State} (h : exec i s = .next t) :
    s.fault = none ∧
    ((i ≠ .init ∧ s.initCalled = false ∧ t = raise (.notInitialized (opcodeOf i)) s) ∨
     (∃ f, Accepts s ∧ ownFault i s = some f ∧ t = raise f s) ∨
     ((i = .init ∨ Accepts s) ∧ ownFault i s = none ∧ t = ran i s)) := by
  rcases hf : s.fault with _ | f
  · refine ⟨rfl, ?_⟩
    by_cases hi : i = .init
    · subst hi
      rw [exec_init hf] at h
      exact .inr (.inr ⟨.inl rfl, rfl, (Host.Outcome.next.inj h).symm⟩)
    · rcases hc : s.initCalled with _ | _
      · rw [exec_uncalled hf hc hi] at h
        exact .inl ⟨hi, rfl, by rw [← Host.Outcome.next.inj h, raise_eq_Faulted]; rfl⟩
      · have ha : Accepts s := ⟨hf, hc⟩
        have h := Host.Outcome.next.inj ((exec_accepts ha i).symm.trans h)
        rw [outcomeOf] at h
        rcases ho : ownFault i s with _ | f
        · rw [ho] at h; exact .inr (.inr ⟨.inr ha, rfl, h.symm⟩)
        · rw [ho] at h; exact .inr (.inl ⟨f, ha, rfl, h.symm⟩)
  · rw [exec_halted hf] at h; cases h

/-! ## What `ran` does to each field -/

@[simp] theorem setup_cfg (i : Instr) (s : State) : (setup i s).cfg = s.cfg := by cases i <;> rfl
@[simp] theorem setup_masks (i : Instr) (s : State) : (setup i s).masks = s.masks := by cases i <;> rfl
@[simp] theorem setup_fault (i : Instr) (s : State) : (setup i s).fault = s.fault := by cases i <;> rfl
@[simp] theorem setup_trace (i : Instr) (s : State) : (setup i s).trace = s.trace := by cases i <;> rfl
@[simp] theorem setup_txn (i : Instr) (s : State) : (setup i s).txn = s.txn := by cases i <;> rfl
@[simp] theorem setup_pc (i : Instr) (s : State) : (setup i s).pc = s.pc := by cases i <;> rfl
@[simp] theorem setup_syncLost (i : Instr) (s : State) : (setup i s).syncLost = s.syncLost := by cases i <;> rfl
@[simp] theorem setup_words (i : Instr) (s : State) : (setup i s).words = s.words := by cases i <;> rfl
@[simp] theorem setup_responses (i : Instr) (s : State) : (setup i s).responses = s.responses := by cases i <;> rfl
@[simp] theorem setup_outcomes (i : Instr) (s : State) : (setup i s).outcomes = s.outcomes := by cases i <;> rfl
@[simp] theorem setup_latch (i : Instr) (s : State) : (setup i s).latch = s.latch := by cases i <;> rfl
@[simp] theorem setup_strobes (i : Instr) (s : State) : (setup i s).strobes = s.strobes := by cases i <;> rfl
@[simp] theorem setup_omega (i : Instr) (s : State) : (setup i s).omega = s.omega := omega_of_outcomes (setup_outcomes i s)

@[simp] theorem finish_cfg (i : Instr) (ok : Bool) (s : State) : (finish i ok s).cfg = s.cfg := by cases i <;> simp [finish]
@[simp] theorem finish_masks (i : Instr) (ok : Bool) (s : State) : (finish i ok s).masks = s.masks := by cases i <;> simp [finish]
@[simp] theorem finish_dfun (i : Instr) (ok : Bool) (s : State) : (finish i ok s).dfun = s.dfun := by cases i <;> simp [finish]
@[simp] theorem finish_dctl (i : Instr) (ok : Bool) (s : State) : (finish i ok s).dctl = s.dctl := by cases i <;> simp [finish]
@[simp] theorem finish_dmode (i : Instr) (ok : Bool) (s : State) : (finish i ok s).dmode = s.dmode := by cases i <;> simp [finish]
@[simp] theorem finish_bl (i : Instr) (ok : Bool) (s : State) : (finish i ok s).bl = s.bl := by cases i <;> simp [finish]
@[simp] theorem finish_initCalled (i : Instr) (ok : Bool) (s : State) : (finish i ok s).initCalled = s.initCalled := by cases i <;> simp [finish]
@[simp] theorem finish_fault (i : Instr) (ok : Bool) (s : State) : (finish i ok s).fault = s.fault := by cases i <;> simp [finish]
@[simp] theorem finish_trace (i : Instr) (ok : Bool) (s : State) : (finish i ok s).trace = s.trace := by cases i <;> simp [finish]
@[simp] theorem finish_txn (i : Instr) (ok : Bool) (s : State) : (finish i ok s).txn = s.txn := by cases i <;> simp [finish]
@[simp] theorem finish_pc (i : Instr) (ok : Bool) (s : State) : (finish i ok s).pc = s.pc := by cases i <;> simp [finish]
@[simp] theorem finish_words (i : Instr) (ok : Bool) (s : State) : (finish i ok s).words = s.words := by cases i <;> simp [finish]
@[simp] theorem finish_responses (i : Instr) (ok : Bool) (s : State) : (finish i ok s).responses = s.responses := by cases i <;> simp [finish]
@[simp] theorem finish_outcomes (i : Instr) (ok : Bool) (s : State) : (finish i ok s).outcomes = s.outcomes := by cases i <;> simp [finish]
@[simp] theorem finish_latch (i : Instr) (ok : Bool) (s : State) : (finish i ok s).latch = s.latch := by cases i <;> simp [finish]
@[simp] theorem finish_strobes (i : Instr) (ok : Bool) (s : State) : (finish i ok s).strobes = s.strobes := by cases i <;> simp [finish]

@[simp] theorem ran_cfg (i : Instr) (s : State) : (ran i s).cfg = s.cfg := by simp [ran]
@[simp] theorem ran_masks (i : Instr) (s : State) : (ran i s).masks = s.masks := by simp [ran]
@[simp] theorem ran_fault (i : Instr) (s : State) : (ran i s).fault = s.fault := by simp [ran]
@[simp] theorem ran_pc (i : Instr) (s : State) : (ran i s).pc = s.pc + lengthOf i := by simp [ran]
@[simp] theorem ran_words (i : Instr) (s : State) : (ran i s).words = s.words := by simp [ran]
@[simp] theorem ran_outcomes (i : Instr) (s : State) : (ran i s).outcomes = s.outcomes := by simp [ran]
@[simp] theorem ran_bl (i : Instr) (s : State) : (ran i s).bl = (setup i s).bl := by simp [ran]
@[simp] theorem ran_initCalled (i : Instr) (s : State) : (ran i s).initCalled = (setup i s).initCalled := by simp [ran]
@[simp] theorem ran_responses (i : Instr) (s : State) : (ran i s).responses =
    s.responses ++ [completedWord (resultOf i s (runPlan (expansion i s) (setup i s)).1)] := by simp [ran]

/-- The expansion of an instruction as the bus sees it, with the backlight bit it packs. -/
def busExpansion (i : Instr) (s : State) : List Out := outsOf (backlightBit s.masks (setup i s).bl) (expansion i s)

/-- What an instruction that runs emits (R34, R92). -/
theorem ran_trace (i : Instr) (s : State) :
    (ran i s).trace = s.trace ++ emission s.cfg.addr s.omega s.txn (busExpansion i s) := by
  have h := (runPlan_emission (expansion i s) (setup i s)).2.1
  simp only [setup_masks, setup_trace, setup_cfg, setup_omega, setup_txn] at h
  simp [ran, h, busExpansion]

theorem ran_txn (i : Instr) (s : State) :
    (ran i s).txn = s.txn + txCount (emission s.cfg.addr s.omega s.txn (busExpansion i s)) := by
  have h := (runPlan_emission (expansion i s) (setup i s)).2.2.1
  simp only [setup_masks, setup_cfg, setup_omega, setup_txn] at h
  simp [ran, h, busExpansion]

theorem ran_ok (i : Instr) (s : State) :
    (runPlan (expansion i s) (setup i s)).1 = emissionOk s.omega s.txn (busExpansion i s) := by
  have h := (runPlan_emission (expansion i s) (setup i s)).1
  simp only [setup_masks, setup_omega, setup_txn] at h
  exact h

theorem ran_syncLost (i : Instr) (s : State) : (ran i s).syncLost =
    if i = .init ∧ emissionOk s.omega s.txn (busExpansion i s) = true then false
    else s.syncLost || !emissionOk s.omega s.txn (busExpansion i s) := by
  have h := (runPlan_emission (expansion i s) (setup i s)).2.2.2
  simp only [setup_masks, setup_omega, setup_txn, setup_syncLost] at h
  have hk := ran_ok i s
  by_cases hi : i = .init
  · subst hi
    simp [ran, finish, h, hk, busExpansion]
  · have : finish i (runPlan (expansion i s) (setup i s)).1 (runPlan (expansion i s) (setup i s)).2 =
        (runPlan (expansion i s) (setup i s)).2 := by
      cases i <;> first | exact absurd rfl hi | rfl
    simp [ran, this, h, hi, busExpansion]

/-- Every instruction but INIT has an expansion that writes no register. -/
theorem expansion_quiet {i : Instr} (h : i ≠ .init) (s : State) : (expansion i s).all Act.quiet = true := by
  cases i with
  | init => exact absurd rfl h
  | createChar slot g => simp [expansion, List.all_append, send_quiet, sendAll_quiet]
  | printstr text => exact sendAll_quiet _ _
  | _ => rfl

theorem finish_of_ne_init {i : Instr} (h : i ≠ .init) (ok : Bool) (s : State) : finish i ok s = s := by
  cases i <;> first | exact absurd rfl h | rfl

/-- What an instruction other than INIT leaves in the registers: what its setup wrote. -/
theorem ran_registers {i : Instr} (h : i ≠ .init) (s : State) :
    (ran i s).dfun = (setup i s).dfun ∧ (ran i s).dctl = (setup i s).dctl ∧ (ran i s).dmode = (setup i s).dmode ∧
      (ran i s).initState = (setup i s).initState := by
  have q := runPlan_quiet (s := setup i s) (expansion_quiet h s)
  simpa [ran, finish_of_ne_init h] using q

end Sys2Proof.Machine
end

