-- ==== Sys2Proof/Laws/Expansion.lean ====
section
/-! SUPPORT. How many transactions an expansion holds, when all of them are ok, and what is emitted then (R34, R92, R171). -/

namespace Sys2Proof.Machine

/-- The number of bytes of an expansion. -/
def byteCount : List Out → Nat
  | [] => 0
  | .byte _ :: xs => 1 + byteCount xs
  | .busBegin :: xs => byteCount xs
  | .wait _ :: xs => byteCount xs

theorem byteCount_append (xs ys : List Out) : byteCount (xs ++ ys) = byteCount xs + byteCount ys := by
  induction xs with
  | nil => simp [byteCount]
  | cons x xs ih => cases x <;> simp [byteCount, ih, Nat.add_assoc]

theorem byteCount_nibbleOuts (p : Masks) (b n : Byte) : byteCount (nibbleOuts p b n) = 3 := rfl

theorem byteCount_byteOuts (p : Masks) (b v r : Byte) : byteCount (byteOuts p b v r) = 6 := rfl

theorem byteCount_initOuts (s : State) : byteCount (initOuts s) = 43 := by
  simp only [initOuts, byteCount_append, byteCount_nibbleOuts, commandOuts, byteCount_byteOuts, byteCount]

/-- An expansion is ok when each of its transactions is. -/
theorem emissionOk_iff (omega : Nat → TxOutcome) (xs : List Out) : ∀ n,
    emissionOk omega n xs = true ↔ ∀ j < byteCount xs, txOk (omega (n + j)) = true := by
  induction xs with
  | nil => intro n; simp [emissionOk, byteCount]
  | cons x xs ih =>
    intro n
    cases x with
    | busBegin => simp [emissionOk, byteCount, ih]
    | wait t => simp [emissionOk, byteCount, ih]
    | byte b =>
      simp only [emissionOk, byteCount, Bool.and_eq_true, ih]
      constructor
      · rintro ⟨h1, h2⟩ j hj
        rcases j with _ | j
        · exact h1
        · rw [show n + (j + 1) = n + 1 + j by omega]; exact h2 j (by omega)
      · intro h
        refine ⟨h 0 (by omega), fun j hj => ?_⟩
        rw [show n + 1 + j = n + (j + 1) by omega]; exact h (j + 1) (by omega)

theorem txCount_emission_of_ok (a : BusAddr) (omega : Nat → TxOutcome) (xs : List Out) : ∀ n,
    emissionOk omega n xs = true → txCount (emission a omega n xs) = byteCount xs := by
  induction xs with
  | nil => intro n _; rfl
  | cons x xs ih =>
    intro n h
    cases x with
    | busBegin => exact ih n h
    | wait t => exact ih n h
    | byte b =>
      simp only [emissionOk, Bool.and_eq_true] at h
      simp [emission, h.1, txCount, byteCount, ih _ h.2]

/-- A plan is ok when its next transactions all are. -/
theorem runPlan_ok_iff (plan : Plan) (s : State) :
    (runPlan plan s).1 = true ↔ nextOk s (byteCount (outsOf (backlightBit s.masks s.bl) plan)) := by
  rw [(runPlan_emission plan s).1, emissionOk_iff]; rfl

theorem runPlan_txn_of_ok (plan : Plan) (s : State) (h : (runPlan plan s).1 = true) :
    (runPlan plan s).2.txn = s.txn + byteCount (outsOf (backlightBit s.masks s.bl) plan) := by
  rw [(runPlan_emission plan s).2.2.1, txCount_emission_of_ok]
  rw [← (runPlan_emission plan s).1]; exact h

theorem nextOk_mono {s : State} {a b : Nat} (h : nextOk s b) (hab : a ≤ b) : nextOk s a := fun j hj => h j (by omega)

/-- The transactions after the first `a` are those of the state that has made `a`. -/
theorem nextOk_add {s t : State} {a b : Nat} (ho : t.omega = s.omega) (ht : t.txn = s.txn + a) (h : nextOk s a) :
    nextOk t b ↔ nextOk s (a + b) := by
  constructor
  · intro hb j hj
    by_cases h1 : j < a
    · exact h j h1
    · have := hb (j - a) (by omega)
      rw [ho, ht, show s.txn + a + (j - a) = s.txn + j by omega] at this; exact this
  · intro hb j hj
    rw [ho, ht, show s.txn + a + j = s.txn + (a + j) by omega]; exact hb _ (by omega)

/-- What an expansion emits when every transaction is ok. -/
theorem emission_of_ok (a : BusAddr) (omega : Nat → TxOutcome) (xs : List Out) : ∀ n, emissionOk omega n xs = true →
    (emission a omega n xs).length = xs.length ∧
    txBytes (emission a omega n xs) = xs.filterMap (fun | .byte b => some b | _ => none) ∧
    waitCount (emission a omega n xs) = (xs.map (fun | .wait _ => 1 | _ => 0)).sum ∧
    waitSum (emission a omega n xs) = (xs.map (fun | .wait t => t | _ => 0)).sum := by
  induction xs with
  | nil => intro n _; exact ⟨rfl, rfl, rfl, rfl⟩
  | cons x xs ih =>
    intro n h
    cases x with
    | busBegin => have := ih n h; simp [emission, waitSum, waitCount, txBytes, this]
    | wait t => have := ih n h; simp [emission, waitSum, waitCount, txBytes, this]
    | byte b =>
      simp only [emissionOk, Bool.and_eq_true] at h
      have := ih _ h.2
      simp [emission, h.1, waitSum, waitCount, txBytes, this]

/-- INIT's expansion, as the bus sees it. -/
theorem busExpansion_init (s : State) : busExpansion .init s = initOuts s := by
  have hb : backlightBit s.masks (setup .init s).bl = blBit s := rfl
  rw [busExpansion, hb, show expansion .init s = initPlan s.masks s.cfg from rfl]
  simp only [initPlan, initOuts, outsOf_append, outsOf, outsOf_write4bits, outsOf_sendCmd, commandOuts, List.append_assoc,
    List.cons_append, List.nil_append, nibble8Bit, nibble4Bit, tPowerUp, tExpReset, tInit1, tInit2, tInit3, tClearHome,
    cmdFunctionSet, cmdDisplayControl, displayOnBit, cmdClear, cmdEntryMode, entryLeft, cmdHome]
  rfl

theorem expansion_init (s : State) : expansion .init s = initPlan s.masks s.cfg := rfl

theorem setup_init (s : State) : setup .init s = beginInit s := rfl

theorem ran_init_initState (s : State) :
    (ran .init s).initState = if emissionOk s.omega s.txn (initOuts s) then .ready else .unpowered := by
  rw [ran, complete_initState, ran_ok, busExpansion_init]
  show (endInit _ _).initState = _
  cases emissionOk s.omega s.txn (initOuts s) <;> rfl

/-! ## Latch and strobes -/

/-- What an ok expander write leaves on the pins (R44, R64, R87). -/
theorem expanderWrite_of_ok {s : State} (d : Byte) (h : txOk (s.omega s.txn) = true) :
    (expanderWrite d s).1 = true ∧ (expanderWrite d s).2.latch = d ||| backlightBit s.masks s.bl ∧
    (expanderWrite d s).2.strobes = s.strobes ++ strobeOf s.masks s.latch (d ||| backlightBit s.masks s.bl) ∧
    (expanderWrite d s).2.txn = s.txn + 1 ∧ (expanderWrite d s).2.omega = s.omega ∧
    (expanderWrite d s).2.masks = s.masks ∧ (expanderWrite d s).2.bl = s.bl := by
  have e : latchAfter (s.omega s.txn) (d ||| backlightBit s.masks s.bl) s.latch = d ||| backlightBit s.masks s.bl := by
    simp [latchAfter, txLands, h]
  refine ⟨h, ?_, ?_, rfl, omega_of_outcomes rfl, rfl, rfl⟩ <;> simp only [expanderWrite, i2cWrite, e]

/-- What a failed expander write leaves (R85). -/
theorem expanderWrite_of_fail {s : State} (d : Byte) (h : txOk (s.omega s.txn) = false) :
    (expanderWrite d s).1 = false ∧
    (expanderWrite d s).2.strobes = s.strobes ++ strobeOf s.masks s.latch (expanderWrite d s).2.latch ∧
    (expanderWrite d s).2.txn = s.txn + 1 ∧ (expanderWrite d s).2.syncLost = true := by
  refine ⟨h, rfl, rfl, ?_⟩
  simp [expanderWrite, i2cWrite, h]

theorem strobeOf_low {p : Masks} {a b : Byte} (h : a &&& p.en = 0#8) : strobeOf p a b = [] := by simp [strobeOf, h]

theorem strobeOf_high {p : Masks} {a b : Byte} (h : b &&& p.en ≠ 0#8) : strobeOf p a b = [] := by simp [strobeOf, h]

/-- The function-set bits are one of three values (R103). -/
theorem funBits_values (cfg : Cfg) : funBits cfg = 0#8 ∨ funBits cfg = 4#8 ∨ funBits cfg = 8#8 := by
  unfold funBits
  by_cases h : cfg.rows > 1#8
  · by_cases g : cfg.charsize = .dots5x10 ∧ cfg.rows = 1#8
    · rw [g.2] at h; exact absurd h (by decide)
    · simp [h, g, twoLine]
  · by_cases g : cfg.charsize = .dots5x10 ∧ cfg.rows = 1#8 <;> simp [h, g, dots5x10Bit]

/-- The backlight bit touches neither Enable, nor Register Select, nor the data nibble (R9). -/
theorem backlightBit_apart {s : State} (hp : s.masks.Apart) : backlightBit s.masks s.bl &&& s.masks.en = 0#8 ∧
    backlightBit s.masks s.bl &&& s.masks.rs = 0#8 ∧ backlightBit s.masks s.bl &&& 0xF0#8 = 0#8 := by
  cases s.bl
  · simp [backlightBit]
  · exact ⟨hp.bl_en, hp.bl_rs, hp.bl_data⟩

/-- Enable going from 1 to 0 strobes the nibble and Register Select of the byte before (R64). -/
theorem strobeOf_pulse {p : Masks} {a b : Byte} (ha : a &&& p.en ≠ 0#8) (hb : b &&& p.en = 0#8) :
    strobeOf p a b = [nibbleStrobe p a] := by
  rw [strobeOf, if_pos ⟨ha, hb⟩, nibbleStrobe]
  by_cases h : a &&& p.rs = 0#8 <;> simp [h]

/-- The nibble latch step after its first two transactions, both ok, whatever the latch held: the latch holds the argument with
Enable high, and what is left is the Enable-low byte and its wait (R88, R89). -/
theorem write4bits_pulsed {s : State} (hp : s.masks.Apart) (n : Byte) (hn : n &&& s.masks.en = 0#8) (hk : nextOk s 2) :
    ∃ u, u.masks = s.masks ∧ u.bl = s.bl ∧ u.omega = s.omega ∧ u.txn = s.txn + 2 ∧ u.latch &&& s.masks.en ≠ 0#8 ∧
      nibbleStrobe s.masks u.latch = nibbleStrobe s.masks n ∧
      u.strobes = s.strobes ++ strobeOf s.masks s.latch (n ||| backlightBit s.masks s.bl) ∧
      runPlan (write4bits s.masks n) s = runPlan [.out n, .wait tExec] u := by
  obtain ⟨b1, b2, b3⟩ := backlightBit_apart hp
  have a1 := expanderWrite_of_ok (s := s) n (by simpa using hk 0 (by omega))
  have h2 := hk 1 (by omega)
  generalize hs1 : (expanderWrite n s).2 = s1 at *
  have a2 := expanderWrite_of_ok (s := s1) (n ||| s.masks.en) (by rw [a1.2.2.2.2.1, a1.2.2.2.1]; exact h2)
  generalize hs2 : (expanderWrite (n ||| s.masks.en) s1).2 = s2 at *
  have e2 : (n ||| s.masks.en ||| backlightBit s.masks s.bl) &&& s.masks.en ≠ 0#8 := by
    rw [or_and_of_right b1, or_and_of_left hn]; simpa using hp.en_ne
  have hlat : s2.latch = n ||| s.masks.en ||| backlightBit s.masks s.bl := by
    rw [a2.2.1, a1.2.2.2.2.2.1, a1.2.2.2.2.2.2]
  refine ⟨s2.emit (.wait tEnHold), a2.2.2.2.2.2.1.trans a1.2.2.2.2.2.1, a2.2.2.2.2.2.2.trans a1.2.2.2.2.2.2,
    (show s2.omega = _ from a2.2.2.2.2.1.trans a1.2.2.2.2.1), ?_, ?_, ?_, ?_, ?_⟩
  · show s2.txn = _
    rw [a2.2.2.2.1, a1.2.2.2.1]
  · show s2.latch &&& _ ≠ _
    rw [hlat]; exact e2
  · show nibbleStrobe _ s2.latch = _
    rw [hlat, nibbleStrobe, nibbleStrobe, or_and_of_right b2, or_and_of_right hp.en_rs, nibble_or b3, nibble_or hp.en_data]
  · show s2.strobes = _
    rw [a2.2.2.1, a1.2.2.1, a1.2.2.2.2.2.1, a1.2.2.2.2.2.2, strobeOf_high e2]; simp
  · simp only [write4bits, pulseEnable, runPlan_cons, runAct, a1.1, if_true, hs1, a2.1, hs2, and_not_of_and_zero hn]

end Sys2Proof.Machine
end

