-- ==== Sys2Proof/Laws/PerInstr.lean ====
section
/-! SUPPORT. One statement about every instruction, as syntax: its encoding has as many words as R71 gives it. -/

namespace Sys2Proof.Laws.EncodeLength

/-- The words of a well-formed instruction are as many as its length (R71), and its header alone says how many. -/
def Statement (i : Instr) : Prop :=
  i.wellFormed = true → (encode i).length = lengthOf i ∧ ∃ w ws, encode i = w :: ws ∧ lengthFromHeader w = lengthOf i

theorem init : Statement .init := fun _ => ⟨rfl, _, _, rfl, rfl⟩

theorem clear : Statement .clear := fun _ => ⟨rfl, _, _, rfl, rfl⟩

theorem home : Statement .home := fun _ => ⟨rfl, _, _, rfl, rfl⟩

theorem setCursor (col row : Byte) : Statement (.setCursor col row) :=
  fun _ => ⟨rfl, _, _, rfl, by simp [lengthFromHeader, headerF2, opcodeOf, lengthOf]⟩

theorem displayOn : Statement .displayOn := fun _ => ⟨rfl, _, _, rfl, rfl⟩

theorem displayOff : Statement .displayOff := fun _ => ⟨rfl, _, _, rfl, rfl⟩

theorem cursorOn : Statement .cursorOn := fun _ => ⟨rfl, _, _, rfl, rfl⟩

theorem cursorOff : Statement .cursorOff := fun _ => ⟨rfl, _, _, rfl, rfl⟩

theorem blinkOn : Statement .blinkOn := fun _ => ⟨rfl, _, _, rfl, rfl⟩

theorem blinkOff : Statement .blinkOff := fun _ => ⟨rfl, _, _, rfl, rfl⟩

theorem scrollLeft : Statement .scrollLeft := fun _ => ⟨rfl, _, _, rfl, rfl⟩

theorem scrollRight : Statement .scrollRight := fun _ => ⟨rfl, _, _, rfl, rfl⟩

theorem leftToRight : Statement .leftToRight := fun _ => ⟨rfl, _, _, rfl, rfl⟩

theorem rightToLeft : Statement .rightToLeft := fun _ => ⟨rfl, _, _, rfl, rfl⟩

theorem autoscrollOn : Statement .autoscrollOn := fun _ => ⟨rfl, _, _, rfl, rfl⟩

theorem autoscrollOff : Statement .autoscrollOff := fun _ => ⟨rfl, _, _, rfl, rfl⟩

theorem createChar (slot : Byte) (glyph : Glyph) : Statement (.createChar slot glyph) :=
  fun _ => ⟨rfl, _, _, rfl, by simp [lengthFromHeader, headerF1, opcodeOf, lengthOf]⟩

theorem backlightOn : Statement .backlightOn := fun _ => ⟨rfl, _, _, rfl, rfl⟩

theorem backlightOff : Statement .backlightOff := fun _ => ⟨rfl, _, _, rfl, rfl⟩

theorem getBacklight : Statement .getBacklight := fun _ => ⟨rfl, _, _, rfl, rfl⟩

theorem command (value : Byte) : Statement (.command value) :=
  fun _ => ⟨rfl, _, _, rfl, by simp [lengthFromHeader, headerF1, opcodeOf, lengthOf]⟩

theorem write (value : Byte) : Statement (.write value) :=
  fun _ => ⟨rfl, _, _, rfl, by simp [lengthFromHeader, headerF1, opcodeOf, lengthOf]⟩

theorem printstr (text : List Byte) : Statement (.printstr text) := by
  intro h
  have hl : text.length ≤ 65535 := by simpa [Instr.lengthFits] using h
  refine ⟨by simp [encode, packBytes_length, lengthOf]; omega, _, _, rfl, ?_⟩
  have hn : (BitVec.ofNat 16 text.length).toNat = text.length := by simp; omega
  simp [lengthFromHeader, opcodeOf, lengthOf, hn]

theorem lcdClear : Statement .lcdClear := fun _ => ⟨rfl, _, _, rfl, rfl⟩

theorem lcdHome (x : BitVec 1) : Statement (.lcdHome x) :=
  fun _ => ⟨rfl, _, _, rfl, by simp [lengthFromHeader, headerF1, opcodeOf, lengthOf]⟩

theorem lcdEntryMode (id s : BitVec 1) : Statement (.lcdEntryMode id s) :=
  fun _ => ⟨rfl, _, _, rfl, by simp [lengthFromHeader, headerF1, opcodeOf, lengthOf]⟩

theorem lcdDisplayControl (d c b : BitVec 1) : Statement (.lcdDisplayControl d c b) :=
  fun _ => ⟨rfl, _, _, rfl, by simp [lengthFromHeader, headerF1, opcodeOf, lengthOf]⟩

theorem lcdShift (sc rl : BitVec 1) (x : BitVec 2) : Statement (.lcdShift sc rl x) :=
  fun _ => ⟨rfl, _, _, rfl, by simp [lengthFromHeader, headerF1, opcodeOf, lengthOf]⟩

theorem lcdFunctionSet (dl n f : BitVec 1) (x : BitVec 2) : Statement (.lcdFunctionSet dl n f x) :=
  fun _ => ⟨rfl, _, _, rfl, by simp [lengthFromHeader, headerF1, opcodeOf, lengthOf]⟩

theorem lcdSetCgram (addr : BitVec 6) : Statement (.lcdSetCgram addr) :=
  fun _ => ⟨rfl, _, _, rfl, by simp [lengthFromHeader, headerF1, opcodeOf, lengthOf]⟩

theorem lcdSetDdram (addr : BitVec 7) : Statement (.lcdSetDdram addr) :=
  fun _ => ⟨rfl, _, _, rfl, by simp [lengthFromHeader, headerF1, opcodeOf, lengthOf]⟩

end Sys2Proof.Laws.EncodeLength
end

