-- ==== Sys2Proof/Machine/Assembly.lean ====
section
/-! DEFINITION. The assembly form of a request (R80) and of the pseudo-instructions (R81), as a function from the characters of
one line to the instruction, and to its words. It is the spec's own notation for programs; no step of the block reads it. -/

namespace Sys2Proof.Machine

/-! ## Characters to tokens -/

inductive Token where
  | word (cs : List Char)
  | text (cs : List Char)
  | comma
  | opening
  | closing
  deriving DecidableEq, Repr

/-- Where the reader stands within a line: between tokens, in a word, in a quoted string. -/
inductive LexMode where
  | between
  | inWord (cs : List Char)
  | inText (cs : List Char)
  deriving DecidableEq, Repr

/-- The token of a separator character; a blank has none. -/
def separator (c : Char) : Option (List Token) :=
  if c = ' ' then some []
  else if c = ',' then some [.comma]
  else if c = '[' then some [.opening]
  else if c = ']' then some [.closing]
  else none

/-- The quotation mark, code 34. -/
def isQuote (c : Char) : Bool := c.toNat == 34

/-- The tokens of a line (R80). Characters of a word or a string are collected in order; an unfinished string is no line. -/
def lexLine : LexMode → List Char → Option (List Token)
  | .between, [] => some []
  | .inWord cs, [] => some [.word cs]
  | .inText _, [] => none
  | .between, c :: rest =>
    match separator c with
    | some ts => (lexLine .between rest).map (ts ++ ·)
    | none => if isQuote c then lexLine (.inText []) rest else lexLine (.inWord [c]) rest
  | .inWord cs, c :: rest =>
    match separator c with
    | some ts => (lexLine .between rest).map (.word cs :: ts ++ ·)
    | none => if isQuote c then none else lexLine (.inWord (cs ++ [c])) rest
  | .inText cs, c :: rest =>
    if isQuote c then (lexLine .between rest).map (.text cs :: ·) else lexLine (.inText (cs ++ [c])) rest

/-! ## Numbers: decimal, or hexadecimal after 0x (R80) -/

/-- The value of a digit in a base up to 16; both cases of a hexadecimal letter are read (log entry 18). -/
def digitValue (base : Nat) (c : Char) : Option Nat :=
  let n := c.toNat
  let v := if 48 ≤ n ∧ n ≤ 57 then n - 48 else if 65 ≤ n ∧ n ≤ 70 then n - 55 else if 97 ≤ n ∧ n ≤ 102 then n - 87 else 16
  if v < base then some v else none

def digitsValue (base : Nat) : Nat → List Char → Option Nat
  | acc, [] => some acc
  | acc, c :: cs =>
    match digitValue base c with
    | some v => digitsValue base (acc * base + v) cs
    | none => none

/-- A number. -/
def numberOf (cs : List Char) : Option Nat :=
  match cs with
  | [] => none
  | '0' :: 'x' :: [] => none
  | '0' :: 'x' :: ds => digitsValue 16 0 ds
  | ds => digitsValue 10 0 ds

/-- A number that is a byte: every operand written as a number is a u8 (R69). -/
def byteOf (cs : List Char) : Option Byte :=
  match numberOf cs with
  | some n => if n < 256 then some (BitVec.ofNat 8 n) else none
  | none => none

/-- The 8-bit code of a character of a quoted string (R80). -/
def codeOfChar (c : Char) : Option Byte := if c.toNat < 256 then some (BitVec.ofNat 8 c.toNat) else none

/-! ## Tokens to operands -/

inductive Operand where
  | byte (b : Byte)
  | bytes (bs : List Byte)
  deriving DecidableEq, Repr

/-- The rest of a bracketed byte list after its first number, up to the closing bracket. -/
def parseBytes : List Token → Option (List Byte × List Token)
  | .word w :: .closing :: rest => (byteOf w).map fun b => ([b], rest)
  | .word w :: .comma :: rest =>
    match byteOf w, parseBytes rest with
    | some b, some (bs, more) => some (b :: bs, more)
    | _, _ => none
  | _ => none

/-- One operand and the tokens after it (R80). -/
def parseOperand : List Token → Option (Operand × List Token)
  | .word w :: rest => (byteOf w).map fun b => (.byte b, rest)
  | .text cs :: rest => (cs.mapM codeOfChar).map fun bs => (.bytes bs, rest)
  | .opening :: .closing :: rest => some (.bytes [], rest)
  | .opening :: rest => (parseBytes rest).map fun r => (.bytes r.1, r.2)
  | _ => none

/-- Operands separated by commas; the fuel bounds their number. -/
def parseOperands : Nat → List Token → Option (List Operand)
  | 0, _ => none
  | fuel + 1, ts =>
    match parseOperand ts with
    | some (o, []) => some [o]
    | some (o, .comma :: rest) => (parseOperands fuel rest).map (o :: ·)
    | _ => none

/-! ## Mnemonics -/

/-- The requests without operands (R68, R80). -/
def bareRequest (m : String) : Option Instr :=
  if m = "INIT" then some .init
  else if m = "CLEAR" then some .clear
  else if m = "HOME" then some .home
  else if m = "DISPLAY_ON" then some .displayOn
  else if m = "DISPLAY_OFF" then some .displayOff
  else if m = "CURSOR_ON" then some .cursorOn
  else if m = "CURSOR_OFF" then some .cursorOff
  else if m = "BLINK_ON" then some .blinkOn
  else if m = "BLINK_OFF" then some .blinkOff
  else if m = "SCROLL_LEFT" then some .scrollLeft
  else if m = "SCROLL_RIGHT" then some .scrollRight
  else if m = "LEFT_TO_RIGHT" then some .leftToRight
  else if m = "RIGHT_TO_LEFT" then some .rightToLeft
  else if m = "AUTOSCROLL_ON" then some .autoscrollOn
  else if m = "AUTOSCROLL_OFF" then some .autoscrollOff
  else if m = "BACKLIGHT_ON" then some .backlightOn
  else if m = "BACKLIGHT_OFF" then some .backlightOff
  else if m = "GET_BACKLIGHT" then some .getBacklight
  else none

/-- The requests and pseudo-instructions with one byte operand (R80, R81). -/
def byteRequest (m : String) (a : Byte) : Option Instr :=
  if m = "COMMAND" then some (.command a)
  else if m = "WRITE" then some (.write a)
  else if m = "SET_DDRAM" then expandPseudo (.setDdram a)
  else if m = "SET_CGRAM" then expandPseudo (.setCgram a)
  else if m = "PUTC" then expandPseudo (.putc a)
  else none

/-- A mnemonic with its operands (R80, R81). That CREATE_CHAR takes its glyph as a quoted string of eight characters too, and that
an empty bracketed list is PRINTSTR's empty string, are the model's choices (log entry 18). -/
def requestOf (m : String) (ops : List Operand) : Option Instr :=
  match ops with
  | [] => bareRequest m
  | [.byte a] => byteRequest m a
  | [.byte a, .byte b] => if m = "SET_CURSOR" then some (.setCursor a b) else none
  | [.byte a, .bytes [g0, g1, g2, g3, g4, g5, g6, g7]] =>
    if m = "CREATE_CHAR" then some (.createChar a ⟨g0, g1, g2, g3, g4, g5, g6, g7⟩) else none
  | [.bytes bs] => if m = "PRINTSTR" ∧ bs.length ≤ 65535 then some (.printstr bs) else none
  | _ => none

/-- One line of assembly (R80, R81). -/
def assembleLine (line : List Char) : Option Instr :=
  match lexLine .between line with
  | some [.word m] => requestOf (String.ofList m) []
  | some (.word m :: ts) =>
    match parseOperands ts.length ts with
    | some ops => requestOf (String.ofList m) ops
    | none => none
  | _ => none

/-- The words of one line (R66, R67). -/
def assembleWords (line : List Char) : Option (List Word) := (assembleLine line).map encode

end Sys2Proof.Machine
end

