-- ==== Sys2Proof/Tests/Slice0.lean ====
section
/-! SUPPORT. Small tests of the model: expected values are those of spec/95_test_vectors.md (V1 to V24) and of the rules' worked
examples, or hand calculation from a rule; and, for every statement with hypotheses, a witness that meets them. -/

namespace Sys2Proof.Tests

open Sys2Proof.Machine

/-! ## The states the tests start from -/

/-- `n` ok transactions (95_test_vectors.md, conventions). -/
def oks (n : Nat) : List TxOutcome := List.replicate n ⟨1, 0x00#8, true⟩

/-- All ok but transaction `k`, whose byte does not reach the pins. -/
def failAt (k : Nat) : List TxOutcome := oks k ++ [⟨0, 0x00#8, false⟩] ++ oks 60

/-- Reset, with an all-ok transport and the latch showing the backlight alone. -/
def blank : State := { State.reset with outcomes := oks 60, latch := 0x08#8 }

/-- "After INIT" of 95_test_vectors.md, with the transactions counted from 0 again. -/
def ready : State :=
  { blank with dfun := some 0x08#8, dctl := some 0x04#8, dmode := some 0x02#8, initCalled := true, initState := .ready }

/-- After an INIT that failed before it wrote a shadow (V12). -/
def unwritten : State := { blank with initCalled := true, syncLost := true }

/-- A block that has faulted. -/
def halted : State := { blank with fault := some (.notInitialized 0x02#8), responses := [0x40000002#32] }

/-- The bytes, the last response and the fault of what an instruction did from `s`. -/
def seen (s : State) (o : Host.Outcome State Fault Refusal) : Option (List Byte × Option Word × Option FaultCode) :=
  match o with
  | .next t => some (txBytes (t.trace.drop s.trace.length), t.responses.getLast?, t.fault)
  | _ => none

/-- The field `f` of the next state. -/
def after {α : Type} (o : Host.Outcome State Fault Refusal) (f : State → α) : Option α :=
  match o with
  | .next t => some (f t)
  | _ => none

/-- Whether a step answered a next state. -/
def completed (o : Host.Outcome State Fault Refusal) : Bool :=
  match o with
  | .next _ => true
  | _ => false

/-! ## Well-formedness: an ill-formed term, which the check refuses -/

theorem test_wellFormed_refuses_long_printstr : (Instr.printstr (List.replicate 65536 0x41#8)).wellFormed = false :=
  decide_eq_false (by rw [List.length_replicate]; omega)

theorem test_wellFormed_accepts_longest_printstr : (Instr.printstr (List.replicate 65535 0x41#8)).wellFormed = true :=
  decide_eq_true (by rw [List.length_replicate])

theorem test_isRequest_refuses_command_byte : Instr.lcdClear.isRequest = false := by decide

/-! ## Decoding: words written out from 30_encoding.md sections 2 and 3 -/

theorem test_decode_init : decode [0x01000000#32] 0 = .request .init ∧ encode .init = [0x01000000#32] := by decide

theorem test_decode_clear : decode [0x02000000#32] 0 = .request .clear ∧ encode .clear = [0x02000000#32] := by decide

theorem test_decode_home : decode [0x03000000#32] 0 = .request .home ∧ encode .home = [0x03000000#32] := by decide

theorem test_decode_setCursor : decode [0x04030100#32] 0 = .request (.setCursor 3#8 1#8) ∧ encode (.setCursor 3#8 1#8) = [0x04030100#32] := by decide

theorem test_decode_displayOn : decode [0x05000000#32] 0 = .request .displayOn ∧ encode .displayOn = [0x05000000#32] := by decide

theorem test_decode_displayOff : decode [0x06000000#32] 0 = .request .displayOff ∧ encode .displayOff = [0x06000000#32] := by decide

theorem test_decode_cursorOn : decode [0x07000000#32] 0 = .request .cursorOn ∧ encode .cursorOn = [0x07000000#32] := by decide

theorem test_decode_cursorOff : decode [0x08000000#32] 0 = .request .cursorOff ∧ encode .cursorOff = [0x08000000#32] := by decide

theorem test_decode_blinkOn : decode [0x09000000#32] 0 = .request .blinkOn ∧ encode .blinkOn = [0x09000000#32] := by decide

theorem test_decode_blinkOff : decode [0x0A000000#32] 0 = .request .blinkOff ∧ encode .blinkOff = [0x0A000000#32] := by decide

theorem test_decode_scrollLeft : decode [0x0B000000#32] 0 = .request .scrollLeft ∧ encode .scrollLeft = [0x0B000000#32] := by decide

theorem test_decode_scrollRight : decode [0x0C000000#32] 0 = .request .scrollRight ∧ encode .scrollRight = [0x0C000000#32] := by decide

theorem test_decode_leftToRight : decode [0x0D000000#32] 0 = .request .leftToRight ∧ encode .leftToRight = [0x0D000000#32] := by decide

theorem test_decode_rightToLeft : decode [0x0E000000#32] 0 = .request .rightToLeft ∧ encode .rightToLeft = [0x0E000000#32] := by decide

theorem test_decode_autoscrollOn : decode [0x0F000000#32] 0 = .request .autoscrollOn ∧ encode .autoscrollOn = [0x0F000000#32] := by decide

theorem test_decode_autoscrollOff : decode [0x10000000#32] 0 = .request .autoscrollOff ∧ encode .autoscrollOff = [0x10000000#32] := by decide

theorem test_decode_createChar :
    decode [0x11000000#32, 0x1F111111#32, 0x1111111F#32] 0 = .request (.createChar 0#8 ⟨0x1F#8, 0x11#8, 0x11#8, 0x11#8, 0x11#8, 0x11#8, 0x11#8, 0x1F#8⟩) ∧
    encode (.createChar 0#8 ⟨0x1F#8, 0x11#8, 0x11#8, 0x11#8, 0x11#8, 0x11#8, 0x11#8, 0x1F#8⟩) = [0x11000000#32, 0x1F111111#32, 0x1111111F#32] := by decide

theorem test_decode_backlightOn : decode [0x12000000#32] 0 = .request .backlightOn ∧ encode .backlightOn = [0x12000000#32] := by decide

theorem test_decode_backlightOff : decode [0x13000000#32] 0 = .request .backlightOff ∧ encode .backlightOff = [0x13000000#32] := by decide

theorem test_decode_getBacklight : decode [0x14000000#32] 0 = .request .getBacklight ∧ encode .getBacklight = [0x14000000#32] := by decide

theorem test_decode_command : decode [0x15280000#32] 0 = .request (.command 0x28#8) ∧ encode (.command 0x28#8) = [0x15280000#32] := by decide

theorem test_decode_write : decode [0x16410000#32] 0 = .request (.write 0x41#8) ∧ encode (.write 0x41#8) = [0x16410000#32] := by decide

theorem test_decode_printstr :
    decode [0x17000002#32, 0x48690000#32] 0 = .request (.printstr [0x48#8, 0x69#8]) ∧
    encode (.printstr [0x48#8, 0x69#8]) = [0x17000002#32, 0x48690000#32] := by decide

theorem test_decode_lcdClear : decodeLcd 0x01#8 = some .lcdClear ∧ decodeTableWord 8 0x01 = some .lcdClear := by decide

theorem test_decode_lcdHome : decodeLcd 0x03#8 = some (.lcdHome 1#1) ∧ decodeTableWord 8 0x03 = some (.lcdHome 1#1) := by decide

theorem test_decode_lcdEntryMode : decodeLcd 0x06#8 = some (.lcdEntryMode 1#1 0#1) ∧ decodeTableWord 8 0x06 = some (.lcdEntryMode 1#1 0#1) := by decide

theorem test_decode_lcdDisplayControl : decodeLcd 0x0D#8 = some (.lcdDisplayControl 1#1 0#1 1#1) ∧ decodeTableWord 8 0x0D = some (.lcdDisplayControl 1#1 0#1 1#1) := by decide

theorem test_decode_lcdShift : decodeLcd 0x18#8 = some (.lcdShift 1#1 0#1 0#2) ∧ decodeTableWord 8 0x18 = some (.lcdShift 1#1 0#1 0#2) := by decide

theorem test_decode_lcdFunctionSet : decodeLcd 0x28#8 = some (.lcdFunctionSet 0#1 1#1 0#1 0#2) ∧ decodeTableWord 8 0x28 = some (.lcdFunctionSet 0#1 1#1 0#1 0#2) := by decide

theorem test_decode_lcdSetCgram : decodeLcd 0x48#8 = some (.lcdSetCgram 0x08#6) ∧ decodeTableWord 8 0x48 = some (.lcdSetCgram 0x08#6) := by decide

theorem test_decode_lcdSetDdram : decodeLcd 0xC3#8 = some (.lcdSetDdram 0x43#7) ∧ decodeTableWord 8 0xC3 = some (.lcdSetDdram 0x43#7) := by decide

theorem test_decodeTableWord_requests :
    decodeTableWord 32 0x04030100 = some (.setCursor 3#8 1#8) ∧
    decodeTableWord 32 0x11000000 = some (.createChar 0#8 ⟨0#8, 0#8, 0#8, 0#8, 0#8, 0#8, 0#8, 0#8⟩) ∧
    decodeTableWord 32 0x17000000 = some (.printstr []) ∧ decodeTableWord 32 0x18000000 = none := by decide

/-- V18: the illegal words of 30_encoding.md section 2. -/
theorem test_decode_illegal :
    decode [0x00000000#32] 0 = .illegal .reservedOpcode ∧ decode [0x18000000#32] 0 = .illegal .reservedOpcode ∧
    decode [0x01000001#32] 0 = .illegal .reservedBits ∧ decode [0x15000001#32] 0 = .illegal .reservedBits ∧
    decode [0x17010001#32, 0x41000000#32] 0 = .illegal .reservedBits ∧
    decode [0x17000001#32, 0x41000001#32] 0 = .illegal .padding ∧
    decode [0x11000000#32, 0x1F1F1F1F#32] 0 = .incomplete ∧ decode [] 0 = .none := by decide

/-- Every request, and every command-byte row, runs as the first instruction after reset. -/
theorem test_withFetchWord_steps :
    completed (step (State.reset.withFetchWord 32 0x01000000)) = true ∧
    after (step (State.reset.withFetchWord 32 0x11000000)) (·.fault) = some (some (.notInitialized 0x11#8)) ∧
    after (step (State.reset.withFetchWord 8 0x28)) (·.fault) = some (some (.notInitialized 0x15#8)) := by decide

/-! ## The assembly form (95_test_vectors.md section 3) -/

theorem test_assemble_setCursor : assembleWords "SET_CURSOR 3, 1".toList = some [0x04030100#32] := by decide

theorem test_assemble_createChar :
    assembleWords "CREATE_CHAR 0, [0x1F,0x11,0x11,0x11,0x11,0x11,0x11,0x1F]".toList =
      some [0x11000000#32, 0x1F111111#32, 0x1111111F#32] := by decide

theorem test_assemble_printstr :
    assembleWords ("PRINTSTR ".toList ++ [Char.ofNat 34, 'H', 'i', Char.ofNat 34]) =
      some [0x17000002#32, 0x48690000#32] ∧
    assembleWords "PRINTSTR [0x00]".toList = some [0x17000001#32, 0x00000000#32] := by decide

theorem test_assemble_pseudo :
    assembleLine "SET_DDRAM 0x43".toList = some (.command 0xC3#8) ∧ assembleLine "SET_DDRAM 128".toList = none ∧
    assembleLine "PUTC 65".toList = some (.write 0x41#8) := by decide

/-! ## The instructions, one step each -/

/-- V1: the 43 bytes of INIT and its answer. -/
theorem test_init_bytes :
    seen blank (exec .init blank) = some
      ([0x08#8, 0x38#8, 0x3C#8, 0x38#8, 0x38#8, 0x3C#8, 0x38#8, 0x38#8, 0x3C#8, 0x38#8, 0x28#8, 0x2C#8, 0x28#8,
        0x28#8, 0x2C#8, 0x28#8, 0x88#8, 0x8C#8, 0x88#8, 0x08#8, 0x0C#8, 0x08#8, 0xC8#8, 0xCC#8, 0xC8#8,
        0x08#8, 0x0C#8, 0x08#8, 0x18#8, 0x1C#8, 0x18#8, 0x08#8, 0x0C#8, 0x08#8, 0x68#8, 0x6C#8, 0x68#8,
        0x08#8, 0x0C#8, 0x08#8, 0x28#8, 0x2C#8, 0x28#8], some 0x00000001#32, none) := by decide

/-- V12: INIT failing at transaction 20 keeps dfun and dctl, not dmode. -/
theorem test_init_fails_at_20 :
    after (exec .init { blank with outcomes := failAt 20 })
      (fun t => (t.dfun, t.dctl, t.dmode)) = some (some 0x08#8, some 0x04#8, none) ∧
    after (exec .init { blank with outcomes := failAt 20 }) (fun t => (t.initState, t.txn, t.responses)) =
      some (.unpowered, 21, [0x00000000#32]) := by decide

/-- R116, worked example: the events of CLEAR. -/
theorem test_clear_events :
    after (exec .clear ready) (·.trace) = some
      [.tx 0x27#7 0x08#8 1 0#8 true, .tx 0x27#7 0x0C#8 1 0#8 true, .wait 1, .tx 0x27#7 0x08#8 1 0#8 true, .wait 50,
        .tx 0x27#7 0x18#8 1 0#8 true, .tx 0x27#7 0x1C#8 1 0#8 true, .wait 1, .tx 0x27#7 0x18#8 1 0#8 true, .wait 50,
        .wait 2000] := by decide

/-- R93: no wait after a failure, so no settle wait either. -/
theorem test_clear_fails :
    after (exec .clear { ready with outcomes := failAt 1 }) (fun t => (t.trace, t.syncLost, t.responses)) = some
      ([.tx 0x27#7 0x08#8 1 0#8 true, .tx 0x27#7 0x0C#8 0 0#8 false], true, [0x00000000#32]) := by decide

/-- V15. -/
theorem test_home :
    seen ready (exec .home ready) =
      some ([0x08#8, 0x0C#8, 0x08#8, 0x28#8, 0x2C#8, 0x28#8], some 0x00000001#32, none) ∧
    after (exec .home ready) (fun t => waitSum t.trace) = some 2102 := by decide

/-- V16: `row == rows` is not clamped. -/
theorem test_setCursor_row_equals_rows :
    seen ready (exec (.setCursor 0#8 2#8) ready) =
      some ([0x98#8, 0x9C#8, 0x98#8, 0x48#8, 0x4C#8, 0x48#8], some 0x00000001#32, none) := by decide

/-- V16: with five rows the clamp of row 6 gives index 4. -/
theorem test_setCursor_faults :
    seen ready (exec (.setCursor 0#8 6#8) { ready with cfg := { ready.cfg with rows := 5#8 } }) =
      some ([], some 0x40000004#32, some (.rowIndexOutOfRange 4#8)) := by decide

/-- V15. -/
theorem test_displayOn :
    seen ready (exec .displayOn ready) =
      some ([0x08#8, 0x0C#8, 0x08#8, 0xC8#8, 0xCC#8, 0xC8#8], some 0x00000001#32, none) ∧
    after (exec .displayOn ready) (·.dctl) = some (some 0x04#8) := by decide

/-- V15. -/
theorem test_displayOff :
    seen ready (exec .displayOff ready) =
      some ([0x08#8, 0x0C#8, 0x08#8, 0x88#8, 0x8C#8, 0x88#8], some 0x00000001#32, none) ∧
    after (exec .displayOff ready) (·.dctl) = some (some 0x00#8) := by decide

/-- V15. -/
theorem test_cursorOn :
    seen ready (exec .cursorOn ready) =
      some ([0x08#8, 0x0C#8, 0x08#8, 0xE8#8, 0xEC#8, 0xE8#8], some 0x00000001#32, none) ∧
    after (exec .cursorOn ready) (·.dctl) = some (some 0x06#8) := by decide

/-- V15. -/
theorem test_cursorOff :
    seen ready (exec .cursorOff ready) =
      some ([0x08#8, 0x0C#8, 0x08#8, 0xC8#8, 0xCC#8, 0xC8#8], some 0x00000001#32, none) ∧
    after (exec .cursorOff ready) (·.dctl) = some (some 0x04#8) := by decide

/-- V15. -/
theorem test_blinkOn :
    seen ready (exec .blinkOn ready) =
      some ([0x08#8, 0x0C#8, 0x08#8, 0xD8#8, 0xDC#8, 0xD8#8], some 0x00000001#32, none) ∧
    after (exec .blinkOn ready) (·.dctl) = some (some 0x05#8) := by decide

/-- V15. -/
theorem test_blinkOff :
    seen ready (exec .blinkOff ready) =
      some ([0x08#8, 0x0C#8, 0x08#8, 0xC8#8, 0xCC#8, 0xC8#8], some 0x00000001#32, none) ∧
    after (exec .blinkOff ready) (·.dctl) = some (some 0x04#8) := by decide

/-- V12 and V15: an unwritten shadow faults; a failed send keeps the new shadow. -/
theorem test_cursorOn_corner_cases :
    seen unwritten (exec .cursorOn unwritten) = some ([], some 0x40000003#32, some (.unwrittenShadow .dctl)) ∧
    after (exec .cursorOn { ready with outcomes := failAt 0 }) (fun t => (t.dctl, t.responses)) =
      some (some 0x06#8, [0x00000000#32]) := by decide

/-- V15. -/
theorem test_scrollLeft :
    seen ready (exec .scrollLeft ready) =
      some ([0x18#8, 0x1C#8, 0x18#8, 0x88#8, 0x8C#8, 0x88#8], some 0x00000001#32, none) := by decide

/-- V15. -/
theorem test_scrollRight :
    seen ready (exec .scrollRight ready) =
      some ([0x18#8, 0x1C#8, 0x18#8, 0xC8#8, 0xCC#8, 0xC8#8], some 0x00000001#32, none) := by decide

/-- V15. -/
theorem test_leftToRight :
    seen ready (exec .leftToRight ready) =
      some ([0x08#8, 0x0C#8, 0x08#8, 0x68#8, 0x6C#8, 0x68#8], some 0x00000001#32, none) ∧
    after (exec .leftToRight ready) (·.dmode) = some (some 0x02#8) := by decide

/-- V15. -/
theorem test_rightToLeft :
    seen ready (exec .rightToLeft ready) =
      some ([0x08#8, 0x0C#8, 0x08#8, 0x48#8, 0x4C#8, 0x48#8], some 0x00000001#32, none) ∧
    after (exec .rightToLeft ready) (·.dmode) = some (some 0x00#8) := by decide

/-- V15. -/
theorem test_autoscrollOn :
    seen ready (exec .autoscrollOn ready) =
      some ([0x08#8, 0x0C#8, 0x08#8, 0x78#8, 0x7C#8, 0x78#8], some 0x00000001#32, none) ∧
    after (exec .autoscrollOn ready) (·.dmode) = some (some 0x03#8) := by decide

/-- V15. -/
theorem test_autoscrollOff :
    seen ready (exec .autoscrollOff ready) =
      some ([0x08#8, 0x0C#8, 0x08#8, 0x68#8, 0x6C#8, 0x68#8], some 0x00000001#32, none) ∧
    after (exec .autoscrollOff ready) (·.dmode) = some (some 0x02#8) := by decide

/-- V15: slot 9 is slot 1. -/
theorem test_createChar :
    seen ready (exec (.createChar 9#8 ⟨0#8, 0#8, 0#8, 0#8, 0#8, 0#8, 0#8, 0#8⟩) ready) =
      some ([0x48#8, 0x4C#8, 0x48#8, 0x88#8, 0x8C#8, 0x88#8] ++
        (List.replicate 16 [0x09#8, 0x0D#8, 0x09#8]).flatten, some 0x00000001#32, none) := by decide

/-- V15: CREATE_CHAR failing at its 22nd transaction, the low nibble of glyph row 2. -/
theorem test_createChar_fails :
    after (exec (.createChar 0#8 ⟨0x1F#8, 0x11#8, 0x11#8, 0x11#8, 0x11#8, 0x11#8, 0x11#8, 0x1F#8⟩)
      { ready with outcomes := failAt 21 }) (fun t => (t.txn, (txBytes t.trace).getLast?, t.pc, t.responses)) =
      some (22, some 0x19#8, 3, [0x00000000#32]) := by decide

/-- V17. -/
theorem test_backlightOn : seen ready (exec .backlightOn ready) = some ([0x08#8], some 0x00000001#32, none) := by decide

/-- V17: the flag is kept when the write fails. -/
theorem test_backlightOff :
    seen ready (exec .backlightOff ready) = some ([0x00#8], some 0x00000001#32, none) ∧
    after (exec .backlightOff { ready with outcomes := failAt 0 }) (fun t => (t.bl, t.responses)) =
      some (false, [0x00000000#32]) := by decide

/-- V17 and V5. -/
theorem test_getBacklight :
    seen ready (exec .getBacklight ready) = some ([], some 0x00000001#32, none) ∧
    seen ready (exec .getBacklight { ready with bl := false }) = some ([], some 0x00000000#32, none) := by decide

/-- V14. -/
theorem test_command :
    seen ready (exec (.command 0x28#8) ready) =
      some ([0x28#8, 0x2C#8, 0x28#8, 0x88#8, 0x8C#8, 0x88#8], some 0x00000001#32, none) ∧
    after (exec (.command 0x01#8) ready) (fun t => waitSum t.trace) = some 102 := by decide

/-- V10: COMMAND failing at its 4th transaction has strobed its high nibble alone. -/
theorem test_command_half_sent :
    after (exec (.command 0x28#8) { ready with outcomes := failAt 3 }) (fun t => (t.txn, t.strobes, t.syncLost)) =
      some (4, [⟨false, 0x2#4⟩], true) := by decide

/-- V14 and V6. -/
theorem test_write :
    seen ready (exec (.write 0x41#8) ready) =
      some ([0x49#8, 0x4D#8, 0x49#8, 0x19#8, 0x1D#8, 0x19#8], some 0x00000001#32, none) ∧
    after (exec (.write 0x41#8) { ready with bl := false }) (fun t => txBytes t.trace) =
      some [0x41#8, 0x45#8, 0x41#8, 0x11#8, 0x15#8, 0x11#8] := by decide

/-- R65: the strobes of a data byte. -/
theorem test_write_strobes :
    after (exec (.write 0x41#8) ready) (fun t => inputPairs t.strobes) = some (some [(true, 0x41#8)]) := by decide

/-- V14. -/
theorem test_printstr :
    seen ready (exec (.printstr [0x48#8, 0x69#8]) ready) =
      some ([0x49#8, 0x4D#8, 0x49#8, 0x89#8, 0x8D#8, 0x89#8, 0x69#8, 0x6D#8, 0x69#8, 0x99#8, 0x9D#8, 0x99#8],
        some 0x00000002#32, none) ∧
    seen ready (exec (.printstr []) ready) = some ([], some 0x00000000#32, none) := by decide

/-- V14: "ABC" failing at its 9th transaction answers 1. -/
theorem test_printstr_fails :
    seen ready (exec (.printstr [0x41#8, 0x42#8, 0x43#8]) { ready with outcomes := failAt 8 }) =
      some ([0x49#8, 0x4D#8, 0x49#8, 0x19#8, 0x1D#8, 0x19#8, 0x49#8, 0x4D#8, 0x49#8], some 0x00000001#32, none) := by decide

/-- R90 on the byte 0x01 of R77. -/
theorem test_lcdClear :
    seen ready (exec .lcdClear ready) =
      some ([0x08#8, 0x0C#8, 0x08#8, 0x18#8, 0x1C#8, 0x18#8], some 0x00000001#32, none) := by decide

/-- R90 on the byte 0x03 of R77. -/
theorem test_lcdHome :
    seen ready (exec (.lcdHome 1#1) ready) =
      some ([0x08#8, 0x0C#8, 0x08#8, 0x38#8, 0x3C#8, 0x38#8], some 0x00000001#32, none) := by decide

/-- R90 on the byte 0x06 of R77. -/
theorem test_lcdEntryMode :
    seen ready (exec (.lcdEntryMode 1#1 0#1) ready) =
      some ([0x08#8, 0x0C#8, 0x08#8, 0x68#8, 0x6C#8, 0x68#8], some 0x00000001#32, none) := by decide

/-- R90 on the byte 0x0D of R77. -/
theorem test_lcdDisplayControl :
    seen ready (exec (.lcdDisplayControl 1#1 0#1 1#1) ready) =
      some ([0x08#8, 0x0C#8, 0x08#8, 0xD8#8, 0xDC#8, 0xD8#8], some 0x00000001#32, none) := by decide

/-- R90 on the byte 0x18 of R77. -/
theorem test_lcdShift :
    seen ready (exec (.lcdShift 1#1 0#1 0#2) ready) =
      some ([0x18#8, 0x1C#8, 0x18#8, 0x88#8, 0x8C#8, 0x88#8], some 0x00000001#32, none) := by decide

/-- R90 on the byte 0x28 of R77. -/
theorem test_lcdFunctionSet :
    seen ready (exec (.lcdFunctionSet 0#1 1#1 0#1 0#2) ready) =
      some ([0x28#8, 0x2C#8, 0x28#8, 0x88#8, 0x8C#8, 0x88#8], some 0x00000001#32, none) := by decide

/-- R90 on the byte 0x48 of R77. -/
theorem test_lcdSetCgram :
    seen ready (exec (.lcdSetCgram 0x08#6) ready) =
      some ([0x48#8, 0x4C#8, 0x48#8, 0x88#8, 0x8C#8, 0x88#8], some 0x00000001#32, none) := by decide

/-- R90 on the byte 0xC3 of R77. -/
theorem test_lcdSetDdram :
    seen ready (exec (.lcdSetDdram 0x43#7) ready) =
      some ([0xC8#8, 0xCC#8, 0xC8#8, 0x38#8, 0x3C#8, 0x38#8], some 0x00000001#32, none) := by decide

/-! ## Faults (V18) -/

theorem test_not_initialized : seen blank (exec .clear blank) = some ([], some 0x40000002#32, some (.notInitialized 0x02#8)) := by
  decide

theorem test_illegal_before_not_initialized :
    seen blank (step { blank with words := [0x02000001#32] }) = some ([], some 0x40000001#32, some (.illegalRequest 0)) := by
  decide

theorem test_step_takes_the_request_at_pc :
    after (step { ready with words := [0x02000000#32, 0x17000002#32, 0x48690000#32], pc := 1 }) (fun t => (t.pc, t.responses)) =
      some (3, [0x00000002#32]) := by decide

theorem reset_inv : State.reset.Inv := by
  constructor <;> simp [State.reset, State.fresh, txCount]
  decide

/-! ## Witnesses: for each statement with hypotheses, states and operands that meet them -/

theorem ready_accepts : Accepts ready := by unfold Accepts; decide

theorem ready_legal : ready.masks.legal = true := by decide

theorem ready_enableLow : enableLow ready := by unfold enableLow; decide

theorem ready_nextOk : nextOk ready 60 := by unfold nextOk; decide

theorem witness_EncodedRequestDecodesToItself :
    (Instr.printstr []).wellFormed = true ∧ (Instr.printstr []).isRequest = true ∧
    (Instr.printstr (List.replicate 65535 0#8)).wellFormed = true := ⟨rfl, rfl, decide_eq_true (by rw [List.length_replicate])⟩

theorem witness_DecodedRequestEncodesToItsWords :
    decode [0#32, 0x17000001#32, 0x41000000#32, 7#32] 1 = .request (.printstr [0x41#8]) := by decide

theorem witness_CommandByteRowsRoundTrip :
    lcdByte (.lcdSetDdram 0x7F#7) = some 0xFF#8 ∧ decodeLcd 0x01#8 = some .lcdClear ∧ decodeLcd 0x00#8 = none := by decide

/-- One illegal header of each kind, one bad padding, and a legal request at the edge of the opcode range. -/
theorem witness_IllegalWordsRaiseIllegalRequest :
    blank.fault = none ∧ IllegalHeader 0x00FFFFFF#32 ∧ IllegalHeader 0x18000000#32 ∧ IllegalHeader 0x01000001#32 ∧
    IllegalPadding 0x17000003#32 [0x41424301#32] ∧
    ({ blank with words := [0x18000000#32] } : State).words.drop 0 = [0x18000000#32] ∧
    ¬IllegalHeader 0x17000001#32 ∧ ¬IllegalPadding 0x17000001#32 [0x41000000#32] := by
  refine ⟨rfl, .inl (by decide), .inr (.inl (by decide)), .inr (.inr (by decide)),
    ⟨by decide, by decide, 3, by decide, by decide, by decide⟩, rfl, ?_, ?_⟩
  · unfold IllegalHeader; decide
  · rintro ⟨-, -, j, h1, h2, h3⟩
    have hj : j = 1 ∨ j = 2 ∨ j = 3 := by simp at h1 h2; omega
    rcases hj with rfl | rfl | rfl <;> exact absurd h3 (by decide)

theorem witness_LengthIsFoundFromTheHeader :
    decode [0x11000000#32, 0#32, 0#32] 0 = .request (.createChar 0#8 ⟨0#8, 0#8, 0#8, 0#8, 0#8, 0#8, 0#8, 0#8⟩) ∧
    decode [0x17000005#32, 0x41424344#32, 0x45000000#32] 0 = .request (.printstr [0x41#8, 0x42#8, 0x43#8, 0x44#8, 0x45#8]) ∧
    decode [0x01000000#32] 0 = .request .init := by decide

theorem witness_AppendedWordsNeverChangeADecodedRequest :
    decode [0x17000000#32] 0 = .request (.printstr []) ∧ decode [0x18000000#32] 0 = .illegal .reservedOpcode := by decide

theorem witness_PseudoInstructionsExpandToOneRequest :
    expandPseudo (.setDdram 0x7F#8) = some (.command 0xFF#8) ∧ expandPseudo (.setDdram 0x80#8) = none ∧
    expandPseudo (.setCgram 0x3F#8) = some (.command 0x7F#8) ∧ expandPseudo (.setCgram 0x40#8) = none ∧
    completed (exec (.command 0xFF#8) ready) = true := by decide

theorem witness_StepRunsTheDecodedRequest :
    blank.fault = none ∧ decode ({ blank with words := [0x01000000#32] } : State).words 0 = .request .init := by decide

theorem witness_StepExistsExactlyWhileRunning :
    runStatus { blank with words := [0x01000000#32] } = .running ∧ runStatus blank = .finished ∧
    runStatus { blank with words := [0x17000001#32] } = .stuck ∧ runStatus halted = .faulted := by decide

theorem witness_ChecksComeInOrder :
    halted.fault = some (.notInitialized 0x02#8) ∧ blank.fault = none ∧ fetch blank = .none ∧
    fetch { blank with words := [0x11000000#32] } = .incomplete ∧
    fetch { blank with words := [0x00000000#32] } = .illegal .reservedOpcode ∧
    (fetch { blank with words := [0x02000000#32] } = .request .clear ∧ blank.initCalled = false) ∧
    after (step { unwritten with words := [0x0D000000#32] }) (·.fault) = some (some (.unwrittenShadow .dmode)) ∧
    after (step { ready with words := [0x04000400#32], cfg := { ready.cfg with rows := 4#8 } }) (·.fault) =
      some (some (.rowIndexOutOfRange 4#8)) := by decide

theorem witness_OutcomesNeverDecideWhetherThereIsAStep :
    completed (step { blank with words := [0x01000000#32] }) = true ∧ step blank = .fault .idle := ⟨by decide, rfl⟩

theorem witness_NibbleStepEmitsSetUpAndPulse :
    0x30#8 &&& ready.masks.en = 0#8 := by decide

theorem witness_SendBytesCarryTheirControlBits :
    ready.masks.legal = true ∧ nextOk ready 6 := by unfold nextOk; decide

theorem witness_NothingIsEmittedAfterAFailure :
    completed (exec .clear { ready with outcomes := failAt 2 }) = true := by decide

theorem witness_InitRunsItsSequence :
    blank.fault = none ∧ emissionOk blank.omega blank.txn (initOuts blank) = true ∧
    emissionOk ({ blank with outcomes := failAt 42 } : State).omega 0 (initOuts blank) = false ∧
    nextOk blank 31 ∧ ¬nextOk { blank with outcomes := failAt 12 } 13 ∧ ¬nextOk { blank with outcomes := failAt 18 } 19 ∧
    ¬nextOk { blank with outcomes := failAt 30 } 31 := by
  unfold nextOk; decide

theorem witness_SuccessfulInitEmitsTheListedBytes :
    blank.fault = none ∧ blank.masks = Masks.default ∧ blank.cfg.rows = 2#8 ∧ blank.bl = true ∧ nextOk blank 43 := by
  unfold nextOk; decide

theorem witness_FunctionSetBitsFollowTheConfiguration :
    2 ≤ (⟨0x27#7, 16#8, 2#8, .dots5x8⟩ : Cfg).rows.toNat ∧ (⟨0x27#7, 16#8, 1#8, .dots5x10⟩ : Cfg).rows.toNat = 1 ∧
    (⟨0x27#7, 16#8, 0#8, .dots5x10⟩ : Cfg).rows.toNat = 0 := by decide

theorem witness_FaultsBeforeInit :
    blank.fault = none ∧ blank.initCalled = false := by decide

theorem witness_ClearAndHomeSendAndSettle :
    Accepts ready := ready_accepts

theorem witness_SetCursorSendsTheRowAddress :
    Accepts ready ∧ [0x00, 0x40, 0x14, 0x54][3]? = some 0x54 ∧
    (if (3#8).toNat > (3#8).toNat then ((3#8).toNat + 255) % 256 else (3#8).toNat) = 3 ∧
    (if (1#8).toNat > (0#8).toNat then ((0#8).toNat + 255) % 256 else (1#8).toNat) = 255 := ⟨ready_accepts, by decide⟩

theorem witness_RowFaultInputsAreTheListedOnes :
    Accepts ready ∧ completed (exec (.setCursor 0#8 4#8) { ready with cfg := { ready.cfg with rows := 4#8 } }) = true ∧
    after (exec (.setCursor 0#8 3#8) ready) (·.fault) = some none := ⟨ready_accepts, by decide⟩

theorem witness_DisplayControlRequestsChangeOneBit :
    Accepts ready ∧ ready.dctl = some 0x04#8 ∧ Accepts unwritten ∧ unwritten.dctl = none := ⟨ready_accepts, rfl, ⟨rfl, rfl⟩, rfl⟩

theorem witness_ScrollRequestsSendTheShiftCommands :
    Accepts ready := ready_accepts

theorem witness_EntryModeRequestsChangeOneBit :
    Accepts ready ∧ ready.dmode = some 0x02#8 ∧ Accepts unwritten ∧ unwritten.dmode = none := ⟨ready_accepts, rfl, ⟨rfl, rfl⟩, rfl⟩

theorem witness_CreateCharSendsAddressThenGlyph :
    Accepts ready := ready_accepts

theorem witness_CommandAndWriteSendTheirByte :
    Accepts ready := ready_accepts

theorem witness_PrintstrSendsAndCountsItsBytes :
    Accepts ready ∧ (List.replicate 65535 0x41#8).length ≤ 65535 := ⟨ready_accepts, by rw [List.length_replicate]⟩

theorem witness_BacklightRequestsSetAndSendTheFlag :
    Accepts ready ∧ enableLow ready := ⟨ready_accepts, ready_enableLow⟩

theorem witness_GetBacklightAnswersTheFlag :
    Accepts ready := ready_accepts

theorem witness_CommandByteRowsAreSentAsCommands :
    lcdByte (.lcdShift 1#1 1#1 3#2) = some 0x1F#8 ∧ Accepts ready := ⟨rfl, ready_accepts⟩

theorem witness_RequestsBeforeInitAreNotInitialized :
    Instr.clear ≠ Instr.init ∧ completed (exec .init blank) = true ∧ Accepts ready ∧ completed (exec .clear ready) = true := ⟨by decide, by decide, ready_accepts, by decide⟩

theorem witness_FaultsArePrecise :
    after (exec .cursorOn unwritten) (·.fault) = some (some (.unwrittenShadow .dctl)) := by decide

theorem witness_AFaultedBlockNeverStepsAgain :
    halted.fault = some (.notInitialized 0x02#8) := by decide

theorem witness_StepNeverWritesParametersOrStream :
    completed (step { blank with words := [0x01000000#32] }) = true := by decide

theorem witness_TraceOnlyGrowsAndTxIsCounted :
    after (step { ready with words := [0x02000000#32] }) (·.txn) = some 6 := by decide

theorem witness_PositionAdvancesByTheLength :
    after (exec (.printstr [0x41#8]) ready) (fun t => (t.fault, t.pc)) = some (none, 2) ∧
    after (exec .home blank) (fun t => (t.fault, t.pc)) = some (some (.notInitialized 0x03#8), 0) := by decide

theorem witness_EachStepAnswersOneResponse :
    after (step { ready with words := [0x02000000#32] }) (fun t => t.responses.length) = some 1 := by decide

theorem witness_InstructionsWriteOnlyTheirFields :
    completed (exec .getBacklight ready) = true ∧ writesDctl .getBacklight = false ∧ writesDmode .getBacklight = false ∧
    writesBl .getBacklight = false := by decide

theorem witness_StepKeepsTheInvariant :
    ({ State.reset with words := [0x00000000#32] } : State).Inv ∧
    completed (step { State.reset with words := [0x00000000#32] }) = true := by
  refine ⟨?_, by decide⟩
  constructor <;> simp [State.reset, State.fresh, txCount]
  decide

theorem witness_BacklightBitIsNeverStale :
    blank.masks.legal = true ∧ blank.fault = none ∧
    (execAll [.init, .backlightOff] blank).map (·.fault) = some none ∧
    ((execAll [.init, .backlightOff] blank).bind fun u => after (exec (.write 0x41#8) u) (·.fault)) = some none := by decide

theorem witness_GetBacklightAnswersTheLastRequest :
    blank.fault = none ∧ (execAll [.init, .backlightOff] blank).map (fun u => (u.fault, u.initCalled)) = some (none, true) := by decide

theorem witness_SyncLostIsObservational :
    completed (exec .init ready) = true ∧ after (exec .init ready) (·.initState) = some .ready ∧
    after (exec .clear { ready with outcomes := failAt 0 }) (·.syncLost) = some true := by decide

theorem witness_ColumnCountIsNeverRead :
    completed (exec (.setCursor 0#8 0#8) ready) = true := by decide

theorem witness_LatchIsNeverRead :
    completed (exec .backlightOn ready) = true := by decide

theorem witness_LatchHoldsTheByteOrAfterFailureEither :
    (i2cWrite 0x27#7 0x55#8 ready).1 = true ∧ (i2cWrite 0x27#7 0x55#8 { ready with outcomes := failAt 0 }).1 = false := by decide

theorem witness_LatchAndStrobesFollowTheTransactions :
    completed (exec (.write 0x41#8) { ready with outcomes := failAt 3 }) = true := by decide

theorem witness_SendStrobesItsTwoNibbles :
    ready.masks.legal = true ∧ enableLow ready ∧ nextOk ready 6 := ⟨ready_legal, ready_enableLow, by unfold nextOk; decide⟩

theorem witness_NibbleStepStrobesItsNibble :
    ready.masks.legal = true ∧ 0x30#8 &&& ready.masks.en = 0#8 ∧ enableLow ready ∧ nextOk ready 3 ∧
    (nextOk { ready with outcomes := failAt 2 } 2 ∧ txOk (({ ready with outcomes := failAt 2 } : State).omega 2) = false ∧
      (({ ready with outcomes := failAt 2 } : State).omega 2).landed = false) ∧
    (nextOk { ready with outcomes := oks 2 ++ [⟨1, 0x03#8, true⟩] } 2 ∧
      txOk (({ ready with outcomes := oks 2 ++ [⟨1, 0x03#8, true⟩] } : State).omega 2) = false ∧
      (({ ready with outcomes := oks 2 ++ [⟨1, 0x03#8, true⟩] } : State).omega 2).landed = true) := by
  unfold nextOk enableLow; decide

theorem witness_InitStrobesTheHandshakeFirst :
    blank.fault = none ∧ blank.masks.legal = true ∧ enableLow blank ∧ nextOk blank 43 := by
  unfold nextOk enableLow; decide

theorem witness_LowNibbleFailureLeavesAHalfSentByte :
    Accepts { ready with outcomes := failAt 3 } ∧ ready.masks.legal = true ∧ enableLow { ready with outcomes := failAt 3 } ∧
    nextOk { ready with outcomes := failAt 3 } 3 ∧ txOk (({ ready with outcomes := failAt 3 } : State).omega 3) = false := by
  unfold Accepts nextOk enableLow; decide

theorem witness_StuckEnableStrobesTheOldNibbleAgain :
    Accepts { ready with latch := 0x2C#8 } ∧ ready.masks.legal = true ∧ ¬enableLow { ready with latch := 0x2C#8 } ∧
    0x00#8 &&& ready.masks.en = 0#8 ∧ nextOk { ready with latch := 0x2C#8 } 1 ∧ nextOk { ready with latch := 0x2C#8 } 3 := by
  unfold Accepts nextOk enableLow; decide

theorem witness_SuccessfulRequestsTakeTheListedTime :
    after (exec .clear ready) (·.fault) = some none ∧ nextOk ready (tableTx .clear) := by
  unfold nextOk; decide

theorem witness_ConstructionRefusesOnlyIllegalConfigurations :
    (0x80 > 0x7F) ∧ Masks.legal ⟨0x01#8, 0x01#8, 0x04#8, 0x08#8⟩ = false ∧ Masks.legal ⟨0x01#8, 0x10#8, 0x04#8, 0x08#8⟩ = false ∧
    0x7F ≤ 0x7F ∧ Masks.default.legal = true := by decide

theorem witness_ConstructedBlockHoldsTheResetValues :
    completed (construct 0x7F 20#8 4#8 .dots5x8 Masks.default) = true := by decide

end Sys2Proof.Tests
end

section
/-! SUPPORT. The converses of `exec_cases`, one for each way an instruction answers a next state, and what one step can do. -/

namespace Sys2Proof.Machine

/-- A block without a fault that no INIT has reached raises `NotInitialized` (R141). -/
theorem exec_of_uncalled {i : Instr} {s : State} (hf : s.fault = none) (hi : s.initCalled = false) (h : i ≠ .init) :
    exec i s = .next (raise (.notInitialized (opcodeOf i)) s) := by
  rw [exec_uncalled hf hi h, raise_eq_Faulted]
  rfl

/-- An accepting block raises the instruction's own fault (R142, R143). -/
theorem exec_of_ownFault {i : Instr} {s : State} {f : FaultCode} (ha : Accepts s) (ho : ownFault i s = some f) :
    exec i s = .next (raise f s) := by
  rw [exec_accepts ha, outcomeOf, ho]

/-- An instruction that the checks let through and that has no fault of its own runs (R83, R97). -/
theorem exec_of_runs {i : Instr} {s : State} (hf : s.fault = none) (h : i = .init ∨ Accepts s)
    (ho : ownFault i s = none) : exec i s = .next (ran i s) := by
  rcases h with rfl | ha
  · exact exec_init hf
  · rw [exec_accepts ha, outcomeOf, ho]

/-- Everything a step can do when it answers a next state (R83, R140). -/
theorem step_cases {s t : State} (h : step s = .next t) :
    s.fault = none ∧
    ((∃ why, fetch s = .illegal why ∧ t = raise (.illegalRequest s.pc) s) ∨
     (∃ i, fetch s = .request i ∧ exec i s = .next t)) := by
  rcases hf : s.fault with _ | f
  · rw [step, unlessHalted_none hf] at h
    refine ⟨rfl, ?_⟩
    cases hd : fetch s with
    | none => rw [hd] at h; cases h
    | incomplete => rw [hd] at h; cases h
    | illegal why => rw [hd] at h; exact .inl ⟨why, rfl, (Host.Outcome.next.inj h).symm⟩
    | request i => rw [hd] at h; exact .inr ⟨i, rfl, h⟩
  · rw [step, unlessHalted_some hf] at h; cases h

end Sys2Proof.Machine
end

section
/-! SUPPORT. The parameters and the host's side of the interface: no operation writes them (R22, R48, R160). -/

namespace Sys2Proof.Machine

theorem raise_sameParameters (f : FaultCode) (s : State) : SameParameters s (raise f s) := ⟨rfl, rfl, rfl, rfl⟩

theorem ran_sameParameters (i : Instr) (s : State) : SameParameters s (ran i s) :=
  ⟨ran_cfg i s, ran_masks i s, ran_words i s, ran_outcomes i s⟩

theorem exec_sameParameters {i : Instr} {s t : State} (h : exec i s = .next t) : SameParameters s t := by
  obtain ⟨-, ⟨-, -, rfl⟩ | ⟨f, -, -, rfl⟩ | ⟨-, -, rfl⟩⟩ := exec_cases h
  · exact raise_sameParameters _ s
  · exact raise_sameParameters f s
  · exact ran_sameParameters i s

theorem step_sameParameters {s t : State} (h : step s = .next t) : SameParameters s t := by
  obtain ⟨-, ⟨-, -, rfl⟩ | ⟨i, -, hi⟩⟩ := step_cases h
  · exact raise_sameParameters _ s
  · exact exec_sameParameters hi

/-- Settles O37: a step raises `IllegalRequest` or runs an instruction, and neither writes a parameter. -/
theorem stepNeverWritesParametersOrStream : Obligations.StepNeverWritesParametersOrStream :=
  fun _ _ => step_sameParameters

end Sys2Proof.Machine
end

section
/-! SUPPORT. `sync_lost` (R35): what an instruction makes of it, and that nothing else an instruction does depends on it. -/

namespace Sys2Proof.Machine

/-! ## Its value after an instruction -/

/-- An expansion shows a failed transaction exactly when it is not ok (R92, R136). -/
theorem any_isFailure_emission (a : BusAddr) (omega : Nat → TxOutcome) (xs : List Out) : ∀ n,
    (emission a omega n xs).any Event.isFailure = !emissionOk omega n xs := by
  induction xs with
  | nil => intro n; rfl
  | cons x xs ih =>
    intro n
    cases x with
    | busBegin => simp [emission, emissionOk, Event.isFailure, ih]
    | wait t => simp [emission, emissionOk, Event.isFailure, ih]
    | byte b => cases hk : txOk (omega n) <;> simp [emission, emissionOk, Event.isFailure, hk, ih]

theorem ownFault_init (s : State) : ownFault .init s = none := rfl

/-- An INIT that ran is `Ready` exactly when every transaction was ok (R108, R109). -/
theorem ran_init_ready_iff (s : State) :
    (ran .init s).initState = .ready ↔ emissionOk s.omega s.txn (busExpansion .init s) = true := by
  rw [ran_init_initState, busExpansion_init]
  cases emissionOk s.omega s.txn (initOuts s) <;> simp

/-- Set by a failed transaction, cleared by a successful INIT alone (R35, R85, R108). -/
theorem exec_syncLost {i : Instr} {s t : State} (h : exec i s = .next t) :
    ∃ new, t.trace = s.trace ++ new ∧
      t.syncLost = if i = .init ∧ t.initState = .ready then false else s.syncLost || new.any Event.isFailure := by
  obtain ⟨-, ⟨hi, -, rfl⟩ | ⟨f, -, ho, rfl⟩ | ⟨-, -, rfl⟩⟩ := exec_cases h
  · exact ⟨[], by simp, by simp [hi]⟩
  · have hi : i ≠ .init := by rintro rfl; simp [ownFault_init] at ho
    exact ⟨[], by simp, by simp [hi]⟩
  · refine ⟨_, ran_trace i s, ?_⟩
    rw [ran_syncLost, any_isFailure_emission]
    by_cases hi : i = .init
    · subst hi; simp only [ran_init_ready_iff]
    · simp [hi]

/-! ## Nothing depends on it -/

/-- The state with another `sync_lost`. -/
def State.setSyncLost (b : Bool) (s : State) : State := { s with syncLost := b }

theorem accepts_setSyncLost (b : Bool) (s : State) : Accepts (s.setSyncLost b) ↔ Accepts s := Iff.rfl

theorem raise_setSyncLost (f : FaultCode) (b : Bool) (s : State) :
    raise f (s.setSyncLost b) = (raise f s).setSyncLost b := rfl

theorem complete_setSyncLost (len : Nat) (val : BitVec 16) (b : Bool) (s : State) :
    complete len val (s.setSyncLost b) = (complete len val s).setSyncLost b := rfl

theorem ownFault_setSyncLost (i : Instr) (b : Bool) (s : State) : ownFault i (s.setSyncLost b) = ownFault i s := by
  cases i <;> rfl

theorem setup_setSyncLost (i : Instr) (b : Bool) (s : State) :
    setup i (s.setSyncLost b) = (setup i s).setSyncLost b := by
  cases i <;> rfl

theorem expansion_setSyncLost (i : Instr) (b : Bool) (s : State) : expansion i (s.setSyncLost b) = expansion i s := by
  cases i <;> rfl

/-- One item of a plan: the same result, and the same state but for `sync_lost`. -/
theorem runAct_setSyncLost (a : Act) (b : Bool) (s : State) :
    ∃ c, runAct a (s.setSyncLost b) = ((runAct a s).1, (runAct a s).2.setSyncLost c) := by
  cases a with
  | out d => exact ⟨b || !txOk (s.omega s.txn), rfl⟩
  | _ => exact ⟨b, rfl⟩

theorem runPlan_setSyncLost (plan : Plan) : ∀ (b : Bool) (s : State),
    ∃ c, runPlan plan (s.setSyncLost b) = ((runPlan plan s).1, (runPlan plan s).2.setSyncLost c) := by
  induction plan with
  | nil => exact fun b s => ⟨b, rfl⟩
  | cons a as ih =>
    intro b s
    obtain ⟨c, hc⟩ := runAct_setSyncLost a b s
    rw [runPlan_cons, runPlan_cons, hc]
    cases (runAct a s).1 with
    | true => exact ih c _
    | false => exact ⟨c, rfl⟩

/-- PRINTSTR counts the same bytes (R115). -/
theorem printLoop_count_setSyncLost (p : Masks) (bs : List Byte) : ∀ (k : BitVec 16) (b : Bool) (s : State),
    (printLoop p bs k (s.setSyncLost b)).1 = (printLoop p bs k s).1 := by
  induction bs with
  | nil => exact fun k b s => rfl
  | cons v vs ih =>
    intro k b s
    obtain ⟨c, hc⟩ := runPlan_setSyncLost (send p v .data) b s
    rw [printLoop, printLoop, hc]
    cases (runPlan (send p v .data) s).1 with
    | true => exact ih _ c _
    | false => rfl

theorem resultOf_setSyncLost (i : Instr) (b : Bool) (s : State) (ok : Bool) :
    resultOf i (s.setSyncLost b) ok = resultOf i s ok := by
  cases i with
  | printstr text => exact printLoop_count_setSyncLost s.masks text 0#16 b s
  | _ => rfl

theorem finish_setSyncLost (i : Instr) (ok b : Bool) (s : State) :
    ∃ c, finish i ok (s.setSyncLost b) = (finish i ok s).setSyncLost c := by
  cases i with
  | init => cases ok with
    | true => exact ⟨false, rfl⟩
    | false => exact ⟨b, rfl⟩
  | _ => exact ⟨b, rfl⟩

theorem ran_setSyncLost (i : Instr) (b : Bool) (s : State) :
    ∃ c, ran i (s.setSyncLost b) = (ran i s).setSyncLost c := by
  obtain ⟨c, hc⟩ := runPlan_setSyncLost (expansion i s) b (setup i s)
  obtain ⟨d, hd⟩ := finish_setSyncLost i (runPlan (expansion i s) (setup i s)).1 c (runPlan (expansion i s) (setup i s)).2
  exact ⟨d, by rw [ran, ran, setup_setSyncLost, expansion_setSyncLost, hc, resultOf_setSyncLost, hd, complete_setSyncLost]⟩

/-- An instruction does the same whatever `sync_lost` was, but for `sync_lost` itself (R35). -/
theorem exec_setSyncLost {i : Instr} {s t : State} (b : Bool) (h : exec i s = .next t) :
    ∃ c, exec i (s.setSyncLost b) = .next (t.setSyncLost c) := by
  obtain ⟨hf, ⟨hi, hc, rfl⟩ | ⟨f, ha, ho, rfl⟩ | ⟨hr, ho, rfl⟩⟩ := exec_cases h
  · exact ⟨b, exec_of_uncalled (s := s.setSyncLost b) hf hc hi⟩
  · exact ⟨b, exec_of_ownFault ((accepts_setSyncLost b s).2 ha) ((ownFault_setSyncLost i b s).trans ho)⟩
  · obtain ⟨c, hc⟩ := ran_setSyncLost i b s
    exact ⟨c, by rw [← hc]; exact exec_of_runs hf hr ((ownFault_setSyncLost i b s).trans ho)⟩

/-- Settles O46: its value is read off what was emitted and INIT's outcome, and every operation commutes with another
`sync_lost`. -/
theorem syncLostIsObservational : Obligations.SyncLostIsObservational := by
  refine ⟨fun i s t h => exec_syncLost h, fun i s t b h => ?_, rfl⟩
  obtain ⟨c, hc⟩ := exec_setSyncLost b h
  exact ⟨t.setSyncLost c, hc, rfl⟩

end Sys2Proof.Machine
end

section
/-! SUPPORT. What the request decoder makes of a header, said once by format (R67, R68), for the two rules read off it:
how long a legal request is (R71), and which words are illegal (R72). -/

namespace Sys2Proof.Machine

/-! ## The decoder by format -/

/-- The answers of the decoder for a header `w` and the words after it, by the format of the header's opcode (R67, R68). -/
inductive DecodeForm (w : Word) (rest : List Word) : Decoded → Prop where
  | f0 {i : Instr} (op : fieldOp w = opcodeOf i) (mask : reservedMask (opcodeOf i) = 0x00FFFFFF#32)
      (range : 0 < (opcodeOf i).toNat ∧ (opcodeOf i).toNat < 0x17) (len : lengthOf i = 1) :
      DecodeForm w rest (decodeF0 w i)
  | f1 {f : Byte → Instr} (op : fieldOp w = 0x15#8 ∨ fieldOp w = 0x16#8) (len : ∀ a, lengthOf (f a) = 1) :
      DecodeForm w rest (decodeF1 w f)
  | f2 (op : fieldOp w = 0x04#8) : DecodeForm w rest (decodeF2 w .setCursor)
  | fC (op : fieldOp w = 0x11#8) : DecodeForm w rest (decodeFC w rest)
  | fS (op : fieldOp w = 0x17#8) : DecodeForm w rest (decodeFS w rest)
  | reserved (op : (fieldOp w).toNat = 0 ∨ 0x18 ≤ (fieldOp w).toNat) : DecodeForm w rest (.illegal .reservedOpcode)

/-- One branch of the decoder's chain. -/
theorem DecodeForm.ite {w : Word} {rest : List Word} {c : Prop} [Decidable c] {a b : Decoded}
    (ha : c → DecodeForm w rest a) (hb : ¬c → DecodeForm w rest b) : DecodeForm w rest (if c then a else b) := by
  split
  · exact ha ‹_›
  · exact hb ‹_›

/-- A branch of format F0, by its row of R68. -/
theorem DecodeForm.rowF0 {w : Word} {rest : List Word} {op : Byte} {b : Decoded} (i : Instr)
    (hb : ¬fieldOp w = op → DecodeForm w rest b) (hop : op = opcodeOf i := by rfl)
    (mask : reservedMask (opcodeOf i) = 0x00FFFFFF#32 := by rfl)
    (range : 0 < (opcodeOf i).toNat ∧ (opcodeOf i).toNat < 0x17 := by decide) (len : lengthOf i = 1 := by rfl) :
    DecodeForm w rest (if fieldOp w = op then decodeF0 w i else b) :=
  .ite (fun h => .f0 (h.trans hop) mask range len) hb

theorem decodeRequest_form (w : Word) (rest : List Word) : DecodeForm w rest (decodeRequest w rest) := by
  unfold decodeRequest
  refine .rowF0 .init fun h01 => .rowF0 .clear fun h02 => .rowF0 .home fun h03 =>
    .ite .f2 fun h04 =>
    .rowF0 .displayOn fun h05 => .rowF0 .displayOff fun h06 => .rowF0 .cursorOn fun h07 =>
    .rowF0 .cursorOff fun h08 => .rowF0 .blinkOn fun h09 => .rowF0 .blinkOff fun h0A =>
    .rowF0 .scrollLeft fun h0B => .rowF0 .scrollRight fun h0C => .rowF0 .leftToRight fun h0D =>
    .rowF0 .rightToLeft fun h0E => .rowF0 .autoscrollOn fun h0F => .rowF0 .autoscrollOff fun h10 =>
    .ite .fC fun h11 =>
    .rowF0 .backlightOn fun h12 => .rowF0 .backlightOff fun h13 => .rowF0 .getBacklight fun h14 =>
    .ite (fun h => .f1 (.inl h) fun _ => rfl) fun h15 => .ite (fun h => .f1 (.inr h) fun _ => rfl) fun h16 =>
    .ite .fS fun h17 => .reserved ?_
  bv_omega

/-! ## The length of a request (R71) -/

theorem lengthFromHeader_eq (w : Word) : lengthFromHeader w =
    (if w.toNat / 2 ^ 24 = 0x11 then 3
      else if w.toNat / 2 ^ 24 = 0x17 then 1 + (w.toNat % 2 ^ 16 + 3) / 4 else 1) := by
  simp only [lengthFromHeader, ← BitVec.toNat_inj, fieldOp_toNat, payloadWords, fieldLen_eq, BitVec.toNat_ofNat]

theorem decodeFC_request {w : Word} {rest : List Word} {i : Instr} (h : decodeFC w rest = .request i) :
    ∃ slot glyph, i = .createChar slot glyph := by
  unfold decodeFC at h
  split at h
  · split at h
    · exact ⟨_, _, by simpa using h.symm⟩
    · cases h
  · cases h

/-- A PRINTSTR that decodes has as many bytes as its header says (R69, R70). -/
theorem decodeFS_request {w : Word} {rest : List Word} {i : Instr} (h : decodeFS w rest = .request i) :
    ∃ text, i = .printstr text ∧ text.length = fieldLen w := by
  unfold decodeFS at h
  split at h
  · split at h
    · cases h
    · next hlen =>
      simp only at h
      split at h
      · refine ⟨_, (Decoded.request.inj h).symm, ?_⟩
        rw [List.length_take, bytesOfWords_length, List.length_take]
        unfold payloadWords at *
        omega
      · cases h
  · cases h

theorem DecodeForm.request_length {w : Word} {rest : List Word} {d : Decoded} (hd : DecodeForm w rest d) {i : Instr}
    (h : d = .request i) : lengthOf i = lengthFromHeader w := by
  cases hd with
  | f0 op mask range len =>
    obtain ⟨rfl, -⟩ := decodeF0_request op h
    rw [lengthFromHeader, if_neg, if_neg, len]
    · intro h17; rw [← op, h17] at mask; exact absurd mask (by decide)
    · intro h11; rw [← op, h11] at mask; exact absurd mask (by decide)
  | f1 op len =>
    obtain ⟨rfl, -⟩ := decodeF1_request rfl h
    rcases op with op | op <;> simp [lengthFromHeader, op, len]
  | f2 op =>
    obtain ⟨rfl, -⟩ := decodeF2_request op h
    simp [lengthFromHeader, op, lengthOf]
  | fC op =>
    obtain ⟨slot, glyph, rfl⟩ := decodeFC_request h
    simp [lengthFromHeader, op, lengthOf]
  | fS op =>
    obtain ⟨text, rfl, hlen⟩ := decodeFS_request h
    simp [lengthFromHeader, op, lengthOf, hlen]
  | reserved op => cases h

/-- Settles O6: the decoder branches by format, and the header fixes the length of each. -/
theorem lengthIsFoundFromTheHeader : Obligations.LengthIsFoundFromTheHeader := fun w rest _ h =>
  ((decodeRequest_form w rest).request_length h).trans (lengthFromHeader_eq w)

end Sys2Proof.Machine
end

section
/-! SUPPORT. Which words the decoder calls illegal (R72), and the fault they raise (R140). -/

namespace Sys2Proof.Machine

/-! ## Reserved bits -/

theorem fieldOp_and (v w : Word) : fieldOp (v &&& w) = fieldOp v &&& fieldOp w := BitVec.extractLsb'_and
theorem fieldA_and (v w : Word) : fieldA (v &&& w) = fieldA v &&& fieldA w := BitVec.extractLsb'_and
theorem fieldB_and (v w : Word) : fieldB (v &&& w) = fieldB v &&& fieldB w := BitVec.extractLsb'_and
theorem fieldC_and (v w : Word) : fieldC (v &&& w) = fieldC v &&& fieldC w := BitVec.extractLsb'_and

theorem word_eq_zero_iff (w : Word) :
    w = 0#32 ↔ fieldOp w = 0#8 ∧ fieldA w = 0#8 ∧ fieldB w = 0#8 ∧ fieldC w = 0#8 := by
  constructor
  · rintro rfl; decide
  · rintro ⟨hop, ha, hb, hc⟩
    rw [← wordOfBytes_fields w, hop, ha, hb, hc]
    rfl

theorem and_wordOfBytes_eq_zero_iff (w : Word) (a b c d : Byte) : w &&& wordOfBytes a b c d = 0#32 ↔
    fieldOp w &&& a = 0#8 ∧ fieldA w &&& b = 0#8 ∧ fieldB w &&& c = 0#8 ∧ fieldC w &&& d = 0#8 := by
  rw [word_eq_zero_iff, fieldOp_and, fieldA_and, fieldB_and, fieldC_and, fieldOp_wordOfBytes, fieldA_wordOfBytes,
    fieldB_wordOfBytes, fieldC_wordOfBytes]

theorem and_0xFF (b : Byte) : b &&& 0xFF#8 = b := BitVec.and_allOnes

theorem and_maskF0_eq_zero_iff (w : Word) :
    w &&& 0x00FFFFFF#32 = 0#32 ↔ fieldA w = 0#8 ∧ fieldB w = 0#8 ∧ fieldC w = 0#8 :=
  (and_wordOfBytes_eq_zero_iff w 0#8 0xFF#8 0xFF#8 0xFF#8).trans (by simp [and_0xFF])

theorem and_maskF1_eq_zero_iff (w : Word) : w &&& 0x0000FFFF#32 = 0#32 ↔ fieldB w = 0#8 ∧ fieldC w = 0#8 :=
  (and_wordOfBytes_eq_zero_iff w 0#8 0#8 0xFF#8 0xFF#8).trans (by simp [and_0xFF])

theorem and_maskF2_eq_zero_iff (w : Word) : w &&& 0x000000FF#32 = 0#32 ↔ fieldC w = 0#8 :=
  (and_wordOfBytes_eq_zero_iff w 0#8 0#8 0#8 0xFF#8).trans (by simp [and_0xFF])

theorem and_maskFS_eq_zero_iff (w : Word) : w &&& 0x00FF0000#32 = 0#32 ↔ fieldA w = 0#8 :=
  (and_wordOfBytes_eq_zero_iff w 0#8 0xFF#8 0#8 0#8).trans (by simp [and_0xFF])

/-- A header whose opcode is not reserved is illegal by its reserved bits alone. -/
theorem illegalHeader_iff_mask {w : Word} (hop : 0 < (fieldOp w).toNat ∧ (fieldOp w).toNat < 0x18) :
    IllegalHeader w ↔ w &&& reservedMask (fieldOp w) ≠ 0#32 := by
  rw [IllegalHeader, ← fieldOp_toNat, BitVec.ofNat_toNat, BitVec.setWidth_eq, or_iff_right (by omega),
    or_iff_right (by omega)]

theorem illegalHeader_of_reserved {w : Word} (h : (fieldOp w).toNat = 0 ∨ 0x18 ≤ (fieldOp w).toNat) : IllegalHeader w := by
  rw [fieldOp_toNat] at h
  exact h.imp_right .inl

/-! ## Padding -/

/-- Byte `j` of a payload, by both readings (R70). -/
theorem bytesOfWords_getElem? (ws : List Word) :
    ∀ j < 4 * ws.length, (bytesOfWords ws)[j]? = some (payloadByte ws j) := by
  induction ws with
  | nil => intro j hj; simp at hj
  | cons w ws ih =>
    intro j hj
    rcases j with _ | _ | _ | _ | j
    · rfl
    · rfl
    · rfl
    · rfl
    · have hcons : payloadByte (w :: ws) (j + 4) = payloadByte ws j := by simp [payloadByte]
      rw [hcons, ← ih j (by simp at hj; omega)]
      rfl

theorem payloadByte_take {ws : List Word} {n j : Nat} (h : j < 4 * n) : payloadByte (ws.take n) j = payloadByte ws j := by
  rw [payloadByte, payloadByte, List.getElem?_take_of_lt (by omega)]

/-- The bytes of the first `n` payload words from byte `len` on. -/
theorem mem_padding_iff {ws : List Word} {n len : Nat} (h : n ≤ ws.length) (b : Byte) :
    b ∈ (bytesOfWords (ws.take n)).drop len ↔ ∃ j, len ≤ j ∧ j < 4 * n ∧ payloadByte ws j = b := by
  have hlen : (bytesOfWords (ws.take n)).length = 4 * n := by rw [bytesOfWords_length, List.length_take_of_le h]
  have hget : ∀ j < 4 * n, (bytesOfWords (ws.take n))[j]? = some (payloadByte ws j) := fun j hj => by
    rw [bytesOfWords_getElem? _ j (by rwa [← bytesOfWords_length, hlen]), payloadByte_take hj]
  simp only [List.mem_iff_getElem?, List.getElem?_drop]
  constructor
  · rintro ⟨k, hk⟩
    have hlt : len + k < 4 * n := hlen ▸ (List.getElem?_eq_some_iff.mp hk).1
    exact ⟨len + k, by omega, hlt, by simpa [hget _ hlt] using hk⟩
  · rintro ⟨j, hj, hlt, rfl⟩
    exact ⟨j - len, by rw [Nat.add_sub_cancel' hj, hget j hlt]⟩

theorem illegalPadding_iff (w : Word) (rest : List Word) : IllegalPadding w rest ↔
    fieldOp w = 0x17#8 ∧ payloadWords (fieldLen w) ≤ rest.length ∧
      ∃ b ∈ (bytesOfWords (rest.take (payloadWords (fieldLen w)))).drop (fieldLen w), b ≠ 0#8 := by
  have hop : fieldOp w = 0x17#8 ↔ w.toNat / 2 ^ 24 = 0x17 := by
    rw [← BitVec.toNat_inj, fieldOp_toNat, BitVec.toNat_ofNat]
  rw [IllegalPadding, ← hop, ← fieldLen_eq]
  refine and_congr_right fun _ => and_congr_right fun hl => ?_
  simp [mem_padding_iff hl, payloadWords, and_assoc]

theorem not_illegalPadding {w : Word} (h : fieldOp w ≠ 0x17#8) (rest : List Word) : ¬IllegalPadding w rest :=
  fun hp => h ((illegalPadding_iff w rest).mp hp).1

/-! ## Illegal answers, by format -/

/-- The decoder's answer is `ILLEGAL`, whatever the reason (R72, R73). -/
def DecodedIllegal (d : Decoded) : Prop := ∃ why, d = .illegal why

theorem decodedIllegal_illegal (why : Illegal) : DecodedIllegal (.illegal why) := ⟨why, rfl⟩

theorem not_decodedIllegal_request (i : Instr) : ¬DecodedIllegal (.request i) := fun ⟨_, h⟩ => by cases h

theorem not_decodedIllegal_incomplete : ¬DecodedIllegal .incomplete := fun ⟨_, h⟩ => by cases h

/-- A check of a format: the answer is illegal when the check fails, or what the check lets through is. -/
theorem decodedIllegal_check {c : Prop} [Decidable c] {d : Decoded} {why : Illegal} :
    DecodedIllegal (if c then d else .illegal why) ↔ ¬c ∨ DecodedIllegal d := by
  by_cases h : c <;> simp [h, decodedIllegal_illegal]

theorem decodeF0_illegal_iff (w : Word) (i : Instr) : DecodedIllegal (decodeF0 w i) ↔ w &&& 0x00FFFFFF#32 ≠ 0#32 := by
  rw [decodeF0, decodedIllegal_check, or_iff_left (not_decodedIllegal_request _), Ne, and_maskF0_eq_zero_iff]

theorem decodeF1_illegal_iff (w : Word) (f : Byte → Instr) :
    DecodedIllegal (decodeF1 w f) ↔ w &&& 0x0000FFFF#32 ≠ 0#32 := by
  rw [decodeF1, decodedIllegal_check, or_iff_left (not_decodedIllegal_request _), Ne, and_maskF1_eq_zero_iff]

theorem decodeF2_illegal_iff (w : Word) (f : Byte → Byte → Instr) :
    DecodedIllegal (decodeF2 w f) ↔ w &&& 0x000000FF#32 ≠ 0#32 := by
  rw [decodeF2, decodedIllegal_check, or_iff_left (not_decodedIllegal_request _), Ne, and_maskF2_eq_zero_iff]

/-- Missing payload words make a CREATE_CHAR incomplete, not illegal (R73). -/
theorem decodeFC_illegal_iff (w : Word) (rest : List Word) :
    DecodedIllegal (decodeFC w rest) ↔ w &&& 0x0000FFFF#32 ≠ 0#32 := by
  unfold decodeFC
  rw [decodedIllegal_check, Ne, and_maskF1_eq_zero_iff, or_iff_left]
  split
  · exact not_decodedIllegal_request _
  · exact not_decodedIllegal_incomplete

theorem decodeFS_illegal_iff {w : Word} (hop : fieldOp w = 0x17#8) (rest : List Word) :
    DecodedIllegal (decodeFS w rest) ↔ w &&& 0x00FF0000#32 ≠ 0#32 ∨ IllegalPadding w rest := by
  rw [decodeFS, decodedIllegal_check, Ne, and_maskFS_eq_zero_iff, illegalPadding_iff]
  refine or_congr_right ?_
  split
  · next hshort => exact iff_of_false not_decodedIllegal_incomplete fun h => by omega
  · next hlong =>
    rw [decodedIllegal_check, or_iff_left (not_decodedIllegal_request _)]
    simp [hop, Nat.le_of_not_lt hlong]

/-- Every format but FS is illegal by its reserved bits alone. -/
theorem illegal_iff_of_mask {w m : Word} {d : Decoded} (hd : DecodedIllegal d ↔ w &&& m ≠ 0#32)
    (hop : 0 < (fieldOp w).toNat ∧ (fieldOp w).toNat < 0x17) (hm : reservedMask (fieldOp w) = m) (rest : List Word) :
    DecodedIllegal d ↔ IllegalHeader w ∨ IllegalPadding w rest := by
  have h17 : fieldOp w ≠ 0x17#8 := by intro h; rw [h] at hop; exact absurd hop (by decide)
  rw [hd, or_iff_left (not_illegalPadding h17 rest), illegalHeader_iff_mask (by omega), hm]

/-- R72: the decoder's answer is illegal exactly for an illegal header or an illegal padding. -/
theorem DecodeForm.illegal_iff {w : Word} {rest : List Word} {d : Decoded} (hd : DecodeForm w rest d) :
    DecodedIllegal d ↔ IllegalHeader w ∨ IllegalPadding w rest := by
  cases hd with
  | f0 op mask range len => exact illegal_iff_of_mask (decodeF0_illegal_iff w _) (by rwa [op]) (by rw [op, mask]) rest
  | f1 op len =>
    rcases op with op | op
    · exact illegal_iff_of_mask (decodeF1_illegal_iff w _) (by rw [op]; decide) (by rw [op]; rfl) rest
    · exact illegal_iff_of_mask (decodeF1_illegal_iff w _) (by rw [op]; decide) (by rw [op]; rfl) rest
  | f2 op => exact illegal_iff_of_mask (decodeF2_illegal_iff w _) (by rw [op]; decide) (by rw [op]; rfl) rest
  | fC op => exact illegal_iff_of_mask (decodeFC_illegal_iff w rest) (by rw [op]; decide) (by rw [op]; rfl) rest
  | fS op =>
    rw [decodeFS_illegal_iff op, illegalHeader_iff_mask (by rw [op]; decide), op]
    rfl
  | reserved op => exact iff_of_true (decodedIllegal_illegal _) (.inl (illegalHeader_of_reserved op))

/-! ## The step on illegal words -/

theorem fetch_of_drop {s : State} {w : Word} {rest : List Word} (h : s.words.drop s.pc = w :: rest) :
    fetch s = decodeRequest w rest := by
  rw [fetch, decode, h]

/-- An illegal request raises `IllegalRequest` with the header's position (R140). -/
theorem step_of_illegal {s : State} (hf : s.fault = none) (h : DecodedIllegal (fetch s)) :
    step s = .next (Faulted s (.illegalRequest s.pc) 0x01#8) := by
  obtain ⟨why, hd⟩ := h
  rw [step, unlessHalted_none hf, hd, runDecoded, raise_eq_Faulted]
  rfl

/-- Settles O5: the decoder's answer is illegal exactly for the words of R72, and the step then takes the fault. -/
theorem illegalWordsRaiseIllegalRequest : Obligations.IllegalWordsRaiseIllegalRequest := by
  intro s w rest hf hw
  have hiff : DecodedIllegal (fetch s) ↔ IllegalHeader w ∨ IllegalPadding w rest := by
    rw [fetch_of_drop hw, (decodeRequest_form w rest).illegal_iff]
  exact ⟨fun h => step_of_illegal hf (hiff.mpr h), fun h why hd => h (hiff.mp ⟨why, hd⟩)⟩

end Sys2Proof.Machine
end

section
/-! SUPPORT. The pseudo-instructions (R81): an instruction that writes no register itself leaves the shadows. -/

namespace Sys2Proof.Machine

theorem raise_sameShadows (f : FaultCode) (s : State) : SameShadows s (raise f s) := ⟨rfl, rfl, rfl⟩

/-- An instruction other than INIT that writes no register before its expansion leaves the shadows (R39). -/
theorem exec_sameShadows {i : Instr} {s t : State} (hi : i ≠ .init) (hs : setup i s = s) (h : exec i s = .next t) :
    SameShadows s t := by
  obtain ⟨-, ⟨-, -, rfl⟩ | ⟨f, -, -, rfl⟩ | ⟨-, -, rfl⟩⟩ := exec_cases h
  · exact raise_sameShadows _ s
  · exact raise_sameShadows f s
  · obtain ⟨hdfun, hdctl, hdmode, -⟩ := ran_registers hi s
    rw [hs] at hdfun hdctl hdmode
    exact ⟨hdfun, hdctl, hdmode⟩

theorem expandPseudo_setDdram (a : Byte) :
    expandPseudo (.setDdram a) = if a.toNat ≤ 0x7F then some (.command (0x80#8 ||| a)) else none := rfl

theorem expandPseudo_setCgram (a : Byte) :
    expandPseudo (.setCgram a) = if a.toNat ≤ 0x3F then some (.command (0x40#8 ||| a)) else none := rfl

/-- A pseudo-instruction expands to a COMMAND or a WRITE. -/
theorem expandPseudo_cases {x : Pseudo} {i : Instr} (h : expandPseudo x = some i) :
    (∃ v, i = .command v) ∨ ∃ v, i = .write v := by
  cases x with
  | setDdram a =>
    rw [expandPseudo_setDdram, Option.ite_none_right_eq_some] at h
    exact .inl ⟨_, (Option.some.inj h.2).symm⟩
  | setCgram a =>
    rw [expandPseudo_setCgram, Option.ite_none_right_eq_some] at h
    exact .inl ⟨_, (Option.some.inj h.2).symm⟩
  | putc c => exact .inr ⟨c, (Option.some.inj h).symm⟩

/-- Settles O8: the bounds are those of `expandPseudo` read as numbers, and a COMMAND or a WRITE writes no shadow. -/
theorem pseudoInstructionsExpandToOneRequest : Obligations.PseudoInstructionsExpandToOneRequest := by
  refine ⟨expandPseudo_setDdram, expandPseudo_setCgram, fun _ => rfl, fun x i s t hx h => ?_⟩
  obtain ⟨v, rfl⟩ | ⟨v, rfl⟩ := expandPseudo_cases hx
  · exact exec_sameShadows (by simp) rfl h
  · exact exec_sameShadows (by simp) rfl h

end Sys2Proof.Machine
end

section
/-! SUPPORT. The primitives pulseEnable, write4bits and send (R88 to R90) as the bus sees them, and that what an instruction emits
ends at its first failed transaction (R93). -/

namespace Sys2Proof.Machine

/-! ## The nibble latch step and `send` -/

/-- `runPlan_emission` with the backlight bit named as the statements name it. -/
theorem runPlan_emits (plan : Plan) (s : State) :
    (runPlan plan s).1 = emissionOk s.omega s.txn (outsOf (blBit s) plan) ∧
      Emitted s (runPlan plan s).2 (outsOf (blBit s) plan) :=
  runPlan_emission plan s

theorem outsOf_pulseEnable (p : Masks) (b n : Byte) : outsOf b (pulseEnable p n) =
    [.byte (n ||| p.en ||| b), .wait 1, .byte ((n &&& ~~~p.en) ||| b), .wait 50] := rfl

/-- Settles O14: pulseEnable and write4bits are plans, so they emit their expansions. -/
theorem nibbleStepEmitsSetUpAndPulse : Obligations.NibbleStepEmitsSetUpAndPulse := by
  intro s n
  refine ⟨?_, ?_, fun h => by rw [and_not_of_and_zero h]⟩
  · rw [← outsOf_pulseEnable]
    exact runPlan_emits _ s
  · rw [← outsOf_pulseEnable]
    exact runPlan_emits (write4bits s.masks n) s

theorem modeBit_eq (p : Masks) (m : Mode) : modeBit p m = if m = .data then p.rs else 0#8 := by
  cases m <;> rfl

theorem outsOf_send (p : Masks) (b v : Byte) (m : Mode) : outsOf b (send p v m) = byteOuts p b v (modeBit p m) := rfl

theorem runPlan_sameParameters (plan : Plan) (s : State) : SameParameters s (runPlan plan s).2 :=
  ⟨runPlan_cfg plan s, runPlan_masks plan s, runPlan_words plan s, runPlan_outcomes plan s⟩

/-- Settles O15: `send` is a plan of two nibble steps that writes no register. -/
theorem sendIsTwoNibblesHighFirst : Obligations.SendIsTwoNibblesHighFirst := by
  intro s v m r t xs
  have hxs : outsOf (blBit s) (send s.masks v m) = xs := by
    rw [outsOf_send, modeBit_eq, byteOuts]
  obtain ⟨hok, hemitted⟩ := runPlan_emits (send s.masks v m) s
  rw [hxs] at hok hemitted
  obtain ⟨hdfun, hdctl, hdmode, hinit⟩ := runPlan_quiet (s := s) (send_quiet s.masks v m)
  exact ⟨hok, hemitted, runPlan_sameParameters _ s, ⟨hdfun, hdctl, hdmode⟩, ⟨runPlan_initCalled _ s, hinit⟩,
    runPlan_bl _ s, runPlan_pc _ s, runPlan_fault _ s, runPlan_responses _ s⟩

/-! ## Nothing after a failure -/

/-- An event that is no failure can stand before any events. -/
theorem stopsAtFailure_cons {e : Event} (he : e.isFailure = false) (es : List Event) :
    stopsAtFailure (e :: es) = stopsAtFailure es := by
  cases es with
  | nil => rfl
  | cons f fs => simp [stopsAtFailure, he]

/-- An expansion is cut right after its first failed transaction (R92, R93). -/
theorem stopsAtFailure_emission (a : BusAddr) (omega : Nat → TxOutcome) (xs : List Out) : ∀ n,
    stopsAtFailure (emission a omega n xs) = true := by
  induction xs with
  | nil => exact fun n => rfl
  | cons x xs ih =>
    intro n
    cases x with
    | busBegin => rw [emission, stopsAtFailure_cons rfl]; exact ih n
    | wait t => rw [emission, stopsAtFailure_cons rfl]; exact ih n
    | byte b =>
      cases hk : txOk (omega n) with
      | true => rw [emission, hk, stopsAtFailure_cons rfl]; exact ih (n + 1)
      | false => rw [emission, hk]; rfl

/-- Settles O17: a fault emits nothing, and what an instruction that ran emits is its expansion, cut at the first failure. -/
theorem nothingIsEmittedAfterAFailure : Obligations.NothingIsEmittedAfterAFailure := by
  intro i s t h
  obtain ⟨-, ⟨-, -, rfl⟩ | ⟨f, -, -, rfl⟩ | ⟨-, -, rfl⟩⟩ := exec_cases h
  · exact ⟨[], (List.append_nil _).symm, rfl⟩
  · exact ⟨[], (List.append_nil _).symm, rfl⟩
  · exact ⟨_, ran_trace i s, stopsAtFailure_emission ..⟩

end Sys2Proof.Machine
end

section
/-! SUPPORT. INIT's shadow writes (R103, R104, R106): a plan that writes a shadow once writes it iff the transactions before that
write were all ok; and INIT's outcome assembled from its expansion, its shadows and its end (R108, R109). -/

namespace Sys2Proof.Machine

/-! ## A plan that writes a shadow once -/

/-- The three shadow registers (R23 to R25). -/
inductive ShadowReg where
  | dfun
  | dctl
  | dmode

/-- What a shadow register holds. -/
def State.shadow (s : State) : ShadowReg → Option Byte
  | .dfun => s.dfun
  | .dctl => s.dctl
  | .dmode => s.dmode

/-- The value an item of a plan writes to a shadow, if it writes it. -/
def Act.written : ShadowReg → Act → Option Byte
  | .dfun, .setDfun v => some v
  | .dctl, .setDctl v => some v
  | .dmode, .setDmode v => some v
  | _, _ => none

/-- The transactions of an item. -/
def Act.txs : Act → Nat
  | .out _ => 1
  | _ => 0

/-- The writes a plan makes to a shadow, each with the number of transactions before it. -/
def shadowWrites (r : ShadowReg) : Plan → List (Nat × Byte)
  | [] => []
  | a :: as => (a.written r).toList.map (0, ·) ++ (shadowWrites r as).map fun w => (a.txs + w.1, w.2)

/-- An item leaves in a shadow what it writes there, else what was there. -/
theorem runAct_shadow (r : ShadowReg) (a : Act) (s : State) :
    (runAct a s).2.shadow r = (a.written r).or (s.shadow r) := by
  cases r <;> cases a <;> rfl

theorem runAct_txn (a : Act) (s : State) : (runAct a s).2.txn = s.txn + a.txs := by
  cases a <;> rfl

theorem runAct_ok_iff (a : Act) (s : State) : (runAct a s).1 = true ↔ nextOk s a.txs := by
  cases a with
  | out d => exact ⟨fun h j hj => by rw [Nat.lt_one_iff.mp hj]; exact h, fun h => h 0 Nat.zero_lt_one⟩
  | _ => exact ⟨fun _ _ hj => absurd hj (Nat.not_lt_zero _), fun _ => rfl⟩

/-- The transactions of an item and those after it. -/
theorem nextOk_txs_add (a : Act) (s : State) (k : Nat) :
    nextOk s (a.txs + k) ↔ (runAct a s).1 = true ∧ nextOk (runAct a s).2 k := by
  have hadd := nextOk_add (b := k) (omega_of_outcomes (runAct_frame a s).outcomes) (runAct_txn a s)
  rw [runAct_ok_iff]
  exact ⟨fun h => have ha := nextOk_mono h (Nat.le_add_right ..); ⟨ha, (hadd ha).mpr h⟩, fun h => (hadd h.1).mp h.2⟩

theorem shadowWrites_cons_of_written {r : ShadowReg} {a : Act} {v : Byte} (h : a.written r = some v) (as : Plan) :
    shadowWrites r (a :: as) = (0, v) :: (shadowWrites r as).map fun w => (a.txs + w.1, w.2) := by
  rw [shadowWrites, h]
  rfl

theorem shadowWrites_cons_of_not_written {r : ShadowReg} {a : Act} (h : a.written r = none) (as : Plan) :
    shadowWrites r (a :: as) = (shadowWrites r as).map fun w => (a.txs + w.1, w.2) := by
  rw [shadowWrites, h]
  rfl

/-- A plan that does not write a shadow keeps it. -/
theorem runPlan_shadow_of_no_write {r : ShadowReg} {plan : Plan} : shadowWrites r plan = [] → ∀ s : State,
    (runPlan plan s).2.shadow r = s.shadow r := by
  induction plan with
  | nil => exact fun _ s => rfl
  | cons a as ih =>
    intro h s
    have ha := runAct_shadow r a s
    cases hw : a.written r with
    | some v => rw [shadowWrites_cons_of_written hw] at h; cases h
    | none =>
      rw [shadowWrites_cons_of_not_written hw, List.map_eq_nil_iff] at h
      rw [hw, Option.none_or] at ha
      rw [runPlan_cons]
      split
      · exact (ih h _).trans ha
      · exact ha

/-- The one write to a shadow is reached iff the transactions before it are all ok, and then it stays (R17, R109). -/
theorem runPlan_shadow_of_one_write {r : ShadowReg} {v : Byte} {plan : Plan} : ∀ {k : Nat}, shadowWrites r plan = [(k, v)] →
    ∀ s : State, (nextOk s k → (runPlan plan s).2.shadow r = some v) ∧
      (¬nextOk s k → (runPlan plan s).2.shadow r = s.shadow r) := by
  induction plan with
  | nil => intro k h; cases h
  | cons a as ih =>
    intro k h s
    have ha := runAct_shadow r a s
    rw [runPlan_cons]
    cases hw : a.written r with
    | some u =>
      rw [shadowWrites_cons_of_written hw, List.cons_eq_cons, List.map_eq_nil_iff] at h
      obtain ⟨hkv, hrest⟩ := h
      cases hkv
      have h0 : nextOk s 0 := fun j hj => absurd hj (Nat.not_lt_zero j)
      rw [hw, Option.some_or] at ha
      refine ⟨fun _ => ?_, fun hn => absurd h0 hn⟩
      split
      · exact (runPlan_shadow_of_no_write hrest _).trans ha
      · exact ha
    | none =>
      rw [shadowWrites_cons_of_not_written hw, List.map_eq_singleton_iff] at h
      obtain ⟨⟨j, u⟩, hrest, hkv⟩ := h
      cases hkv
      rw [hw, Option.none_or] at ha
      rw [nextOk_txs_add]
      obtain ⟨hyes, hno⟩ := ih hrest (runAct a s).2
      cases hok : (runAct a s).1 with
      | true => exact ⟨fun hn => hyes hn.2, fun hn => (hno fun hj => hn ⟨rfl, hj⟩).trans ha⟩
      | false => exact ⟨fun hn => absurd hn.1 Bool.false_ne_true, fun _ => ha⟩

/-! ## INIT -/

/-- What INIT writes to each shadow (R103, R104, R106). -/
def initShadow (cfg : Cfg) : ShadowReg → Byte
  | .dfun => funBits cfg
  | .dctl => displayOnBit
  | .dmode => entryLeft

/-- The transactions INIT makes before it writes each shadow, in its steps 5, 6a and 6c. -/
def txBeforeShadow : ShadowReg → Nat
  | .dfun => 13
  | .dctl => 19
  | .dmode => 31

theorem shadowWrites_initPlan (p : Masks) (cfg : Cfg) (r : ShadowReg) :
    shadowWrites r (initPlan p cfg) = [(txBeforeShadow r, initShadow cfg r)] := by
  cases r <;> simp [initPlan, send, write4bits, pulseEnable, shadowWrites, Act.written, Act.txs, txBeforeShadow, initShadow]

theorem ran_init_runPlan_shadow (r : ShadowReg) (s : State) :
    (ran .init s).shadow r = (runPlan (initPlan s.masks s.cfg) (beginInit s)).2.shadow r := by
  rw [ran, expansion_init, setup_init]
  cases r <;> simp [State.shadow]

/-- INIT writes a shadow iff the transactions before the write were all ok (R109). -/
theorem ran_init_shadow (r : ShadowReg) (s : State) :
    (nextOk s (txBeforeShadow r) → (ran .init s).shadow r = some (initShadow s.cfg r)) ∧
      (¬nextOk s (txBeforeShadow r) → (ran .init s).shadow r = s.shadow r) := by
  rw [ran_init_runPlan_shadow]
  have h := runPlan_shadow_of_one_write (shadowWrites_initPlan s.masks s.cfg r) (beginInit s)
  cases r <;> exact h

theorem nextOk_of_initOuts {s : State} (h : emissionOk s.omega s.txn (initOuts s) = true) : nextOk s 43 := by
  rw [emissionOk_iff, byteCount_initOuts] at h
  exact h

theorem ran_init_answered {s : State} (hf : s.fault = none) :
    Answered s (ran .init s) 1 (if emissionOk s.omega s.txn (initOuts s) then 1#16 else 0#16) := by
  refine ⟨ran_pc .init s, ?_, (ran_fault .init s).trans hf⟩
  rw [ran_responses, ran_ok, busExpansion_init, completedWord_eq]
  rfl

theorem ran_init_syncLost (s : State) :
    (ran .init s).syncLost = if emissionOk s.omega s.txn (initOuts s) then false else true := by
  rw [ran_syncLost, busExpansion_init]
  cases emissionOk s.omega s.txn (initOuts s) <;> simp

/-- Settles O18: an INIT emits its expansion and is answered like any request; what its end adds is read off `endInit`, and each
shadow off the transactions before its one write, which a successful INIT made. -/
theorem initRunsItsSequence : Obligations.InitRunsItsSequence := by
  refine ⟨by decide, fun s hf => ⟨ran .init s, exec_init hf, ?_⟩⟩
  obtain ⟨hdfun, hdfun'⟩ := ran_init_shadow .dfun s
  obtain ⟨hdctl, hdctl'⟩ := ran_init_shadow .dctl s
  obtain ⟨hdmode, hdmode'⟩ := ran_init_shadow .dmode s
  refine ⟨?_, ?_, ran_init_answered hf, ran_sameParameters .init s, ran_bl .init s, ran_initCalled .init s, fun hok => ?_,
    fun hfail => ?_, hdfun, hdfun', hdctl, hdctl', hdmode, hdmode'⟩
  · rw [ran_trace, busExpansion_init]
  · rw [ran_txn, busExpansion_init]
  · have hall := nextOk_of_initOuts hok
    exact ⟨by simp [ran_init_initState, hok], by simp [ran_init_syncLost, hok], hdfun (nextOk_mono hall (by decide)),
      hdctl (nextOk_mono hall (by decide)), hdmode (nextOk_mono hall (by decide))⟩
  · exact ⟨by simp [ran_init_initState, hfail], by simp [ran_init_syncLost, hfail]⟩

end Sys2Proof.Machine
end

section
/-! SUPPORT. A request of one plan that writes no register (R39, R92), a header of format F1 as bits of a word (R67), and the two
requests that send one byte: COMMAND (R113) and WRITE (R114). -/

namespace Sys2Proof.Machine

/-! ## The decoder on a header of format F1 -/

/-- The bytes of a word at their places, as bits (R50, R67). -/
theorem wordOfBytes_eq_or (a b c d : Byte) : wordOfBytes a b c d =
    BitVec.setWidth 32 a <<< 24 ||| BitVec.setWidth 32 b <<< 16 ||| BitVec.setWidth 32 c <<< 8 ||| BitVec.setWidth 32 d := by
  rw [← BitVec.setWidth_eq (wordOfBytes a b c d), wordOfBytes]
  simp only [BitVec.setWidth_append_eq_shiftLeft_setWidth_or, BitVec.shiftLeft_or_distrib, ← BitVec.shiftLeft_add]

theorem headerF1_eq_or (op a : Byte) : headerF1 op a = BitVec.setWidth 32 op <<< 24 ||| BitVec.setWidth 32 a <<< 16 := by
  simp [headerF1, wordOfBytes_eq_or]

theorem fieldOp_headerF1 (op a : Byte) : fieldOp (headerF1 op a) = op := fieldOp_wordOfBytes ..

theorem decodeF1_headerF1 (op a : Byte) (f : Byte → Instr) : decodeF1 (headerF1 op a) f = .request (f a) := by
  simp [decodeF1, headerF1]

theorem decodeRequest_command {w : Word} (h : fieldOp w = 0x15#8) (rest : List Word) :
    decodeRequest w rest = decodeF1 w .command := by unfold decodeRequest; rw [h]; rfl

theorem decodeRequest_write {w : Word} (h : fieldOp w = 0x16#8) (rest : List Word) :
    decodeRequest w rest = decodeF1 w .write := by unfold decodeRequest; rw [h]; rfl

theorem decode_singleton (w : Word) : decode [w] 0 = decodeRequest w [] := rfl

theorem decode_headerF1_command (v : Byte) : decode [headerF1 0x15#8 v] 0 = .request (.command v) := by
  rw [decode_singleton, decodeRequest_command (fieldOp_headerF1 ..), decodeF1_headerF1]

theorem decode_headerF1_write (v : Byte) : decode [headerF1 0x16#8 v] 0 = .request (.write v) := by
  rw [decode_singleton, decodeRequest_write (fieldOp_headerF1 ..), decodeF1_headerF1]

/-! ## A request of one plan -/

/-- Every instruction but INIT faults before any INIT, with its own opcode (R141). -/
theorem faultsBeforeInit {i : Instr} (h : i ≠ .init) : FaultsBeforeInit i (opcodeOf i) :=
  fun _ hf hi => exec_uncalled hf hi h

/-- A one-word request of a plan that writes no register completes and transmits the plan's expansion (R39, R83, R92). -/
theorem completes_transmits {i : Instr} {s : State} {plan : Plan} (ha : Accepts s) (hx : exec i s = planRequest i plan s)
    (hl : lengthOf i = 1) (hq : plan.all Act.quiet = true) :
    Completes i s fun t => Transmits s t (outsOf (blBit s) plan) := by
  refine ⟨boolRequest 1 plan s, ?_, boolRequest_transmits hq ha.1⟩
  rw [hx, planRequest_accepts ha, hl]

theorem exec_command (v : Byte) (s : State) : exec (.command v) s = planRequest (.command v) (send s.masks v .cmd) s := rfl

theorem exec_write (v : Byte) (s : State) : exec (.write v) s = planRequest (.write v) (send s.masks v .data) s := rfl

/-- Settles O28: the word is the header of format F1 that holds the byte, and the request is one `send` of it, a plan that writes
no register. -/
theorem commandAndWriteSendTheirByte : Obligations.CommandAndWriteSendTheirByte := by
  refine ⟨fun v => ?_, fun v => ?_, fun v => faultsBeforeInit (by simp), fun v => faultsBeforeInit (by simp),
    fun s v ha => ⟨?_, ?_⟩⟩
  · rw [← decode_headerF1_command, headerF1_eq_or]
    rfl
  · rw [← decode_headerF1_write, headerF1_eq_or]
    rfl
  · exact completes_transmits ha (exec_command v s) rfl (send_quiet ..)
  · exact completes_transmits ha (exec_write v s) rfl (send_quiet ..)

end Sys2Proof.Machine
end

section
/-! SUPPORT. The display commands that send one command byte and write no shadow: CLEAR and HOME with their settle wait (R116,
R117), the display shifts (R125, R126), and SET_CURSOR with its row clamp and its fault (R118, R143). -/

namespace Sys2Proof.Machine

/-! ## One command byte, with or without the settle wait -/

/-- A one-word request that is a single command byte transmits that byte's expansion (R90, R112). -/
theorem completes_command {i : Instr} {v : Byte} {s : State} (ha : Accepts s)
    (hx : exec i s = planRequest i (send s.masks v .cmd) s) (hl : lengthOf i = 1) :
    Completes i s fun t => Transmits s t (commandOuts s v) :=
  completes_transmits ha hx hl (send_quiet ..)

theorem outsOf_sendCmd_settle (s : State) (v : Byte) :
    outsOf (blBit s) (send s.masks v .cmd ++ [.wait tClearHome]) = commandOuts s v ++ [.wait 2000] := by
  rw [outsOf_append, outsOf_sendCmd]
  rfl

/-- A command byte followed by the settle wait of CLEAR and HOME (R116, R117). -/
theorem completes_command_settle {i : Instr} {v : Byte} {s : State} (ha : Accepts s)
    (hx : exec i s = planRequest i (send s.masks v .cmd ++ [.wait tClearHome]) s) (hl : lengthOf i = 1) :
    Completes i s fun t => Transmits s t (commandOuts s v ++ [.wait 2000]) := by
  rw [← outsOf_sendCmd_settle]
  exact completes_transmits ha hx hl rfl

/-- Settles O21: each is the plan of one `send` and the settle wait, cut at its first failed transaction. -/
theorem clearAndHomeSendAndSettle : Obligations.ClearAndHomeSendAndSettle := by
  refine ⟨by decide, by decide, faultsBeforeInit (by simp), faultsBeforeInit (by simp), fun s ha => ⟨?_, ?_⟩⟩
  · exact completes_command_settle ha rfl rfl
  · exact completes_command_settle ha rfl rfl

/-- Settles O25: each is one `send`, a plan that writes no register. -/
theorem scrollRequestsSendTheShiftCommands : Obligations.ScrollRequestsSendTheShiftCommands := by
  refine ⟨by decide, by decide, faultsBeforeInit (by simp), faultsBeforeInit (by simp), fun s ha => ⟨?_, ?_⟩⟩
  · exact completes_command ha rfl rfl
  · exact completes_command ha rfl rfl

/-! ## SET_CURSOR -/

theorem headerF2_eq_or (op a b : Byte) : headerF2 op a b =
    BitVec.setWidth 32 op <<< 24 ||| BitVec.setWidth 32 a <<< 16 ||| BitVec.setWidth 32 b <<< 8 := by
  simp [headerF2, wordOfBytes_eq_or]

theorem fieldOp_headerF2 (op a b : Byte) : fieldOp (headerF2 op a b) = op := fieldOp_wordOfBytes ..

theorem decodeRequest_setCursor {w : Word} (h : fieldOp w = 0x04#8) (rest : List Word) :
    decodeRequest w rest = decodeF2 w .setCursor := by unfold decodeRequest; rw [h]; rfl

theorem decode_headerF2_setCursor (col row : Byte) :
    decode [headerF2 0x04#8 col row] 0 = .request (.setCursor col row) := by
  rw [decode_singleton, decodeRequest_setCursor (fieldOp_headerF2 ..)]
  simp [decodeF2, headerF2]

/-- The clamped row as a number; with no rows, one less wraps to 255 (R118). -/
theorem clampRow_toNat (rows row : Byte) : (clampRow rows row).toNat =
    if row.toNat > rows.toNat then (rows.toNat + 255) % 256 else row.toNat := by
  have hlt : row > rows ↔ row.toNat > rows.toNat := Iff.rfl
  simp only [clampRow, hlt]
  split
  · rw [BitVec.toNat_sub, Nat.add_comm]
    rfl
  · rfl

/-- The chain of `rowOffset` is the table of R11, which holds nothing from index 4 on. -/
theorem rowOffset_eq_getElem? (r : Byte) :
    rowOffset r = ([0x00, 0x40, 0x14, 0x54] : List Nat)[r.toNat]?.map (BitVec.ofNat 8) := by
  unfold rowOffset
  split_ifs with h0 h1 h2 h3
  · rw [h0]; rfl
  · rw [h1]; rfl
  · rw [h2]; rfl
  · rw [h3]; rfl
  · have hr : 4 ≤ r.toNat := by bv_omega
    rw [List.getElem?_eq_none hr]; rfl

theorem ddramAddress_ofNat (col : Byte) (base : Nat) :
    ddramAddress col (BitVec.ofNat 8 base) = BitVec.ofNat 8 ((col.toNat + base) % 256) := by
  apply BitVec.eq_of_toNat_eq
  simp [ddramAddress]

/-- A clamped row with an offset: the address goes out as one command (R118). -/
theorem completes_setCursor {s : State} {col row base : Byte} (ha : Accepts s)
    (hb : rowOffset (clampRow s.cfg.rows row) = some base) :
    Completes (.setCursor col row) s fun t => Transmits s t (commandOuts s (0x80#8 ||| ddramAddress col base)) := by
  refine ⟨boolRequest 1 (send s.masks (cmdSetDdram (ddramAddress col base)) .cmd) s, ?_,
    boolRequest_transmits (send_quiet ..) ha.1⟩
  refine (execSetCursor_accepts ha col row).trans ?_
  rw [hb]
  rfl

/-- A clamped row without an offset faults with it (R143). -/
theorem exec_setCursor_of_no_offset {s : State} {row : Byte} (col : Byte) (ha : Accepts s)
    (hb : rowOffset (clampRow s.cfg.rows row) = none) :
    exec (.setCursor col row) s = .next (Faulted s (.rowIndexOutOfRange (clampRow s.cfg.rows row)) 0x04#8) := by
  refine (execSetCursor_accepts ha col row).trans ?_
  rw [hb, raise_eq_Faulted]
  rfl

/-- Settles O22: the clamp and the offset table read as numbers; a row in the table sends its address, any other faults. -/
theorem setCursorSendsTheRowAddress : Obligations.SetCursorSendsTheRowAddress := by
  refine ⟨fun col row => ?_, fun col row => faultsBeforeInit (by simp), fun s col row ha => ?_⟩
  · rw [← decode_headerF2_setCursor, headerF2_eq_or]
    rfl
  · rw [← clampRow_toNat]
    refine ⟨fun base hbase => ?_, fun hr => ?_⟩
    · rw [← ddramAddress_ofNat]
      exact completes_setCursor ha (by rw [rowOffset_eq_getElem?, hbase]; rfl)
    · rw [BitVec.ofNat_toNat, BitVec.setWidth_eq]
      exact exec_setCursor_of_no_offset col ha (by rw [rowOffset_eq_getElem?, List.getElem?_eq_none hr]; rfl)

end Sys2Proof.Machine
end

section
/-! SUPPORT. The toggles of the display-control and entry-mode shadows (R26, R119 to R124, R127 to R130, R142): one lemma for each
shadow, over the function that changes its bit. -/

namespace Sys2Proof.Machine

/-- A display-control toggle sends its command from the state that already holds the new value (R26). -/
theorem togglesDctl_of_exec {i : Instr} {f : Byte → Byte} (hx : ∀ s, exec i s = toggleDctl i f s) (hl : lengthOf i = 1) :
    TogglesDctl i f := by
  intro s ha
  refine ⟨fun c hc => ?_, fun hc => ?_⟩
  · obtain ⟨hemitted, hanswered, hparams, ⟨hdfun, hdctl, hdmode⟩, hinit, hbl⟩ :=
      boolRequest_transmits (send_quiet s.masks (cmdDisplayControl (f c)) .cmd) (s := s.setDctl (f c)) ha.1
    refine ⟨_, ?_, hemitted, hanswered, hdctl, hdfun, hdmode, hparams, hinit, hbl⟩
    rw [hx, toggleDctl_accepts ha, hc, hl]
    rfl
  · rw [hx, toggleDctl_accepts ha, hc, raise_eq_Faulted]
    rfl

/-- An entry-mode toggle sends its command from the state that already holds the new value (R26). -/
theorem togglesDmode_of_exec {i : Instr} {f : Byte → Byte} (hx : ∀ s, exec i s = toggleDmode i f s)
    (hl : lengthOf i = 1) : TogglesDmode i f := by
  intro s ha
  refine ⟨fun m hm => ?_, fun hm => ?_⟩
  · obtain ⟨hemitted, hanswered, hparams, ⟨hdfun, hdctl, hdmode⟩, hinit, hbl⟩ :=
      boolRequest_transmits (send_quiet s.masks (cmdEntryMode (f m)) .cmd) (s := s.setDmode (f m)) ha.1
    refine ⟨_, ?_, hemitted, hanswered, hdmode, hdfun, hdctl, hparams, hinit, hbl⟩
    rw [hx, toggleDmode_accepts ha, hm, hl]
    rfl
  · rw [hx, toggleDmode_accepts ha, hm, raise_eq_Faulted]
    rfl

/-- Settles O24: each request is the toggle of `dctl` by its one bit, cleared by the complement of that bit's mask. -/
theorem displayControlRequestsChangeOneBit : Obligations.DisplayControlRequestsChangeOneBit := by
  refine ⟨⟨?_, ?_, ?_, ?_, ?_, ?_⟩, ⟨?_, ?_, ?_, ?_, ?_, ?_⟩, by decide⟩
  iterate 6 exact togglesDctl_of_exec (fun _ => rfl) rfl
  iterate 6 exact faultsBeforeInit (by simp)

/-- Settles O26: each request is the toggle of `dmode` by its one bit, cleared by the complement of that bit's mask. -/
theorem entryModeRequestsChangeOneBit : Obligations.EntryModeRequestsChangeOneBit := by
  refine ⟨⟨?_, ?_, ?_, ?_⟩, ⟨?_, ?_, ?_, ?_⟩, by decide⟩
  iterate 4 exact togglesDmode_of_exec (fun _ => rfl) rfl
  iterate 4 exact faultsBeforeInit (by simp)

end Sys2Proof.Machine
end

section
/-! SUPPORT. CREATE_CHAR (R131): its three words, its CGRAM address as a number, and a plan of a command and eight data bytes. -/

namespace Sys2Proof.Machine

theorem decode_cons (w : Word) (rest : List Word) : decode (w :: rest) 0 = decodeRequest w rest := rfl

/-- The three words of a CREATE_CHAR (R67, R70). -/
theorem decode_createChar (slot : Byte) (g : Glyph) :
    decode [headerF1 0x11#8 slot, wordOfBytes g.g0 g.g1 g.g2 g.g3, wordOfBytes g.g4 g.g5 g.g6 g.g7] 0 =
      .request (.createChar slot g) := by
  rw [decode_cons, decodeRequest_createChar (fieldOp_headerF1 ..)]
  simp [decodeFC, headerF1]

/-- The slot's address: its low three bits, eight bytes a slot (R47). -/
theorem cgramAddress_eq (slot : Byte) : cgramAddress slot = BitVec.ofNat 8 (8 * (slot.toNat % 8)) := by
  have hmask : slot.toNat &&& 7 = slot.toNat % 8 := Nat.and_two_pow_sub_one_eq_mod _ 3
  apply BitVec.eq_of_toNat_eq
  simp [cgramAddress, hmask, Nat.shiftLeft_eq, Nat.mul_comm]

theorem textOuts_rows (s : State) (g : Glyph) : textOuts s g.rows =
    dataOuts s g.g0 ++ dataOuts s g.g1 ++ dataOuts s g.g2 ++ dataOuts s g.g3 ++ dataOuts s g.g4 ++ dataOuts s g.g5 ++
      dataOuts s g.g6 ++ dataOuts s g.g7 := by
  simp [Glyph.rows, textOuts]

theorem outsOf_createChar (s : State) (slot : Byte) (g : Glyph) :
    outsOf (blBit s) (expansion (.createChar slot g) s) =
      commandOuts s (0x40#8 ||| BitVec.ofNat 8 (8 * (slot.toNat % 8))) ++ textOuts s g.rows := by
  rw [expansion, outsOf_append, outsOf_sendCmd, outsOf_sendAll, cgramAddress_eq]
  rfl

/-- A request of a plan that writes no register, of any length: `S.pc` advances by its own words (R33). -/
theorem completes_plan {i : Instr} {s : State} {plan : Plan} (ha : Accepts s) (hx : exec i s = planRequest i plan s)
    (hq : plan.all Act.quiet = true) :
    Completes i s fun t => Emitted s t (outsOf (blBit s) plan) ∧
      Answered s t (lengthOf i) (if emissionOk s.omega s.txn (outsOf (blBit s) plan) then 1#16 else 0#16) ∧
      SameParameters s t ∧ SameShadows s t ∧ SameInit s t ∧ t.bl = s.bl := by
  obtain ⟨hemitted, ⟨-, hresponse, hfault⟩, hframe⟩ := boolRequest_transmits hq ha.1
  exact ⟨boolRequest (lengthOf i) plan s, hx.trans (planRequest_accepts ha i plan), hemitted,
    ⟨congrArg (· + lengthOf i) (runPlan_pc plan s), hresponse, hfault⟩, hframe⟩

/-- Settles O27: the three words decode to the slot and the glyph, and the request is the plan of the address and the rows. -/
theorem createCharSendsAddressThenGlyph : Obligations.CreateCharSendsAddressThenGlyph := by
  refine ⟨fun slot => ?_, fun slot g => faultsBeforeInit (by simp), fun s slot g ha => ?_⟩
  · rw [← decode_createChar, headerF1_eq_or]
    rfl
  · intro xs
    have hxs : outsOf (blBit s) (expansion (.createChar slot g) s) = xs := by
      rw [outsOf_createChar, textOuts_rows]
      simp only [xs, List.append_assoc]
    rw [← hxs]
    exact completes_plan ha rfl (expansion_quiet (by simp) s)

end Sys2Proof.Machine
end

section
/-! SUPPORT. The backlight requests (R132 to R134): the flag is written before the one expander byte, so that byte carries the new
flag, and the flag outlives a failed write. -/

namespace Sys2Proof.Machine

/-! ## The one expander byte -/

/-- In an accepting block both requests are one expander byte from the state that already holds the new flag (R132, R133). -/
theorem exec_backlight_accepts {s : State} (ha : Accepts s) (b : Bool) :
    exec (if b then .backlightOn else .backlightOff) s = .next (boolRequest 1 [.out 0x00#8] (s.setBl b)) := by
  cases b with
  | true => exact backlightRequest_accepts ha .backlightOn true
  | false => exact backlightRequest_accepts ha .backlightOff false

/-- The byte is the backlight bit of the new flag alone: data, RS, RW and EN are 0 (R132). -/
theorem outsOf_backlight (s : State) (b : Bool) :
    outsOf (blBit (s.setBl b)) [.out 0x00#8] = [.byte (if b then s.masks.bl else 0#8)] :=
  congrArg (fun x => [Out.byte x]) BitVec.zero_or

/-- A request of one expander byte strobes nothing from Enable low (R64). -/
theorem boolRequest_out_strobes {s : State} (h : enableLow s) (len : Nat) (d : Byte) :
    (boolRequest len [.out d] s).strobes = s.strobes := by
  have hplan : (runPlan [.out d] s).2 = (expanderWrite d s).2 := by
    rw [runPlan_cons]
    split <;> rfl
  rw [boolRequest, complete_strobes, hplan, expanderWrite, i2cWrite_strobes, strobeOf_low h, List.append_nil]

/-- Settles O30: each request transmits its one byte from the state that already holds the new flag. -/
theorem backlightRequestsSetAndSendTheFlag : Obligations.BacklightRequestsSetAndSendTheFlag := by
  refine ⟨by decide, by decide, faultsBeforeInit (by simp), faultsBeforeInit (by simp), fun s ha b => ?_⟩
  obtain ⟨hemitted, hanswered, hparams, hshadows, hinit, hbl⟩ :=
    boolRequest_transmits (plan := [.out 0x00#8]) rfl (s := s.setBl b) ha.1
  rw [outsOf_backlight] at hemitted hanswered
  exact ⟨_, exec_backlight_accepts ha b, hbl, hemitted, hanswered, hparams, hshadows, hinit,
    fun hlow => boolRequest_out_strobes (s := s.setBl b) hlow 1 0x00#8⟩

/-! ## GET_BACKLIGHT -/

theorem completedWord_boolVal (b : Bool) : completedWord (boolVal b) = if b then 0x00000001#32 else 0x00000000#32 := by
  cases b <;> rfl

/-- Settles O31: the request only completes, with the flag as its answer. -/
theorem getBacklightAnswersTheFlag : Obligations.GetBacklightAnswersTheFlag := by
  refine ⟨by decide, faultsBeforeInit (by simp), fun s ha => ?_⟩
  rw [← completedWord_boolVal]
  exact execGetBacklight_accepts ha

end Sys2Proof.Machine
end

section
/-! SUPPORT. The faults of 60_exceptions.md: a block halts on the one it takes (R139), the checks of a request and their order
(R141, R145), the faults an instruction raises of its own (R142, R143), and the configurations that construction refuses (R144). -/

namespace Sys2Proof.Machine

/-! ## A faulted block (R83, R139) -/

theorem step_halted {s : State} {f : FaultCode} (h : s.fault = some f) : step s = .fault (.halted f) :=
  unlessHalted_some h _

/-- Settles O34: `raise` is the state of R139, and it has a fault, so neither a step nor an instruction runs. -/
theorem takingAFaultRecordsAndHalts : Obligations.TakingAFaultRecordsAndHalts :=
  fun s f => ⟨raise_eq_Faulted f s, step_halted (raise_fault s f), exec_halted (raise_fault s f)⟩

/-! ## An instruction's own faults (R142, R143) -/

theorem dctlFault_eq_some {s : State} {f : FaultCode} (h : dctlFault s = some f) : f = .unwrittenShadow .dctl :=
  (Option.some.inj (Option.ite_none_right_eq_some.mp h).2).symm

theorem dmodeFault_eq_some {s : State} {f : FaultCode} (h : dmodeFault s = some f) : f = .unwrittenShadow .dmode :=
  (Option.some.inj (Option.ite_none_right_eq_some.mp h).2).symm

theorem rowFault_eq_some {s : State} {row : Byte} {f : FaultCode} (h : rowFault s row = some f) :
    f = .rowIndexOutOfRange (clampRow s.cfg.rows row) :=
  (Option.some.inj (Option.ite_none_right_eq_some.mp h).2).symm

/-- Only the toggles and SET_CURSOR have a fault of their own. -/
theorem ownFault_cases {i : Instr} {s : State} {f : FaultCode} (h : ownFault i s = some f) :
    (f = .unwrittenShadow .dctl ∧ writesDctl i = true ∧ i ≠ .init) ∨
    (f = .unwrittenShadow .dmode ∧ writesDmode i = true ∧ i ≠ .init) ∨
    (∃ r col row, f = .rowIndexOutOfRange r ∧ i = .setCursor col row) := by
  cases i with
  | setCursor col row => exact .inr (.inr ⟨_, col, row, rowFault_eq_some h, rfl⟩)
  | displayOn | displayOff | cursorOn | cursorOff | blinkOn | blinkOff =>
    exact .inl ⟨dctlFault_eq_some h, rfl, by simp⟩
  | leftToRight | rightToLeft | autoscrollOn | autoscrollOff =>
    exact .inr (.inl ⟨dmodeFault_eq_some h, rfl, by simp⟩)
  | _ => cases h

theorem ownFault_ne_notInitialized (i : Instr) (s : State) (op : Byte) : ownFault i s ≠ some (.notInitialized op) := by
  intro h
  obtain ⟨hf, -⟩ | ⟨hf, -⟩ | ⟨r, col, row, hf, -⟩ := ownFault_cases h <;> cases hf

/-- Past the check of R141 an instruction leaves its own fault or none, and its own fault comes before any event. -/
theorem exec_fault {i : Instr} {s t : State} (hc : i = .init ∨ s.initCalled = true) (h : exec i s = .next t) :
    t.fault = ownFault i s ∧ (t.fault ≠ none → t.trace = s.trace) := by
  obtain ⟨hs, ⟨hi, hu, -⟩ | ⟨f, -, ho, rfl⟩ | ⟨-, ho, rfl⟩⟩ := exec_cases h
  · simp [hi, hu] at hc
  · exact ⟨ho.symm, fun _ => raise_trace s f⟩
  · have hf : (ran i s).fault = none := (ran_fault i s).trans hs
    exact ⟨hf.trans ho.symm, fun hne => absurd hf hne⟩

/-! ## The order of the checks (R145) -/

theorem step_of_fetch {s : State} {d : Decoded} (hf : s.fault = none) (hd : fetch s = d) : step s = runDecoded d s := by
  rw [step, unlessHalted_none hf, hd]

/-- Settles O11: the fault first, then what was fetched, then the check of INIT; what is left is the instruction's own fault. -/
theorem checksComeInOrder : Obligations.ChecksComeInOrder := by
  refine ⟨fun s f => step_halted, fun s => step_of_fetch, fun s => step_of_fetch,
    fun s why hf hd => step_of_illegal hf ⟨why, hd⟩, fun s i hf hd hi hc => ?_, fun s i t f hf hd hc ht htf => ?_⟩
  · exact (step_of_fetch hf hd).trans (exec_uncalled hf hc hi)
  · obtain ⟨hown, htrace⟩ := exec_fault hc ((step_of_fetch hf hd).symm.trans ht)
    exact ⟨ownFault_cases (hown.symm.trans htf), htrace (by simp [htf])⟩

/-! ## NotInitialized (R141) -/

/-- An INIT that answers a next state has run, whatever the transport did: it counts as called and takes no fault (R28, R97). -/
theorem exec_init_called {s t : State} (h : exec .init s = .next t) : t.initCalled = true ∧ t.fault = none := by
  refine ⟨?_, (exec_fault (.inl rfl) h).1⟩
  rw [exec_init (exec_cases h).1] at h
  rw [← Host.Outcome.next.inj h, ran_initCalled]
  rfl

/-- Settles O33: the check of R141 comes before an instruction's rule, and no rule raises `NotInitialized` itself. -/
theorem requestsBeforeInitAreNotInitialized : Obligations.RequestsBeforeInitAreNotInitialized := by
  refine ⟨fun i => faultsBeforeInit, fun s t => exec_init_called, fun s i t op ha ht => ?_⟩
  rw [(exec_fault (.inr ha.2) ht).1]
  exact ownFault_ne_notInitialized i s op

/-! ## RowIndexOutOfRange (R143) -/

/-- The offset table ends at index 3 (R11). -/
theorem rowOffset_eq_none_iff (r : Byte) : rowOffset r = none ↔ 4 ≤ r.toNat := by
  rw [rowOffset_eq_getElem?, Option.map_eq_none_iff, List.getElem?_eq_none_iff]
  rfl

theorem rowFault_iff (s : State) (row : Byte) :
    (∃ r, rowFault s row = some (.rowIndexOutOfRange r)) ↔ 4 ≤ (clampRow s.cfg.rows row).toNat := by
  rw [← rowOffset_eq_none_iff, ← Option.isNone_iff_eq_none]
  simp [rowFault]

/-- Settles O23: the five kinds are the rows that the clamp takes to an index of 4 or more. -/
theorem rowFaultInputsAreTheListedOnes : Obligations.RowFaultInputsAreTheListedOnes := by
  intro s t col row ha ht
  obtain ⟨hown, htrace⟩ := exec_fault (.inr ha.2) ht
  refine ⟨?_, htrace⟩
  rw [hown, ownFault, rowFault_iff, clampRow_toNat]
  have hrows := s.cfg.rows.isLt
  split <;> omega

/-! ## Construction (R144) -/

/-- A new block meets the invariant when its masks do: nothing is written, emitted or answered yet (R41). -/
theorem fresh_inv {p : Masks} (hp : p.legal = true) (cfg : Cfg) : (State.fresh cfg p).Inv where
  masks := hp
  dfun := .inl rfl
  dctl := nofun
  dmode := nofun
  shadowOrder := ⟨absurd rfl, absurd rfl⟩
  initState := .inl rfl
  ready := nofun
  uncalled := fun _ => ⟨rfl, rfl, rfl⟩
  txn := rfl
  events := nofun
  responses := nofun
  fault := nofun

/-- Settles O56: both branches of `construct`; an address up to 0x7F survives its seven bits. -/
theorem constructionRefusesOnlyIllegalConfigurations : Obligations.ConstructionRefusesOnlyIllegalConfigurations := by
  intro addr cols rows charsize p
  refine ⟨fun hbad => if_neg ?_, fun haddr hp => ?_, rfl⟩
  · rintro ⟨haddr, hp⟩
    rcases hbad with hbig | hillegal
    · omega
    · simp [hillegal] at hp
  · exact ⟨_, if_pos ⟨haddr, hp⟩, (BitVec.toNat_ofNat ..).trans (Nat.mod_eq_of_lt (by omega)),
      rfl, rfl, rfl, rfl, fresh_inv hp _⟩

end Sys2Proof.Machine
end

section
/-! SUPPORT. The encoder against the decoder (R66 to R73): each undoes the other, and words appended to a stream change neither a
request that is whole nor an illegal one; then the HD44780 command bytes (R77). -/

namespace Sys2Proof.Machine

/-! ## The decoder on encoded words -/

/-- The decoder reads the words at its position alone. -/
theorem decode_append_length (before : List Word) (w : Word) (rest : List Word) :
    decode (before ++ w :: rest) before.length = decodeRequest w rest := by
  rw [decode, List.drop_left]

theorem encode_length {i : Instr} (h : i.wellFormed = true) : (encode i).length = lengthOf i := by
  cases i with
  | printstr text => exact (Laws.EncodeLength.printstr text h).1
  | _ => rfl

/-- A request without payload is in its header alone, whatever follows. -/
theorem decodeRequest_of_header {w : Word} {i : Instr} (h : decodeRequest w [] = .request i) (h11 : fieldOp w ≠ 0x11#8)
    (h17 : fieldOp w ≠ 0x17#8) (rest : List Word) : decodeRequest w rest = .request i := by
  rw [decodeRequest_of_short h11 h17, h]

theorem decodeFC_packed (slot : Byte) (g : Glyph) (after : List Word) :
    decodeFC (headerF1 0x11#8 slot) (wordOfBytes g.g0 g.g1 g.g2 g.g3 :: wordOfBytes g.g4 g.g5 g.g6 g.g7 :: after) =
      .request (.createChar slot g) := by
  simp [decodeFC, headerF1]

/-- A packed string is followed by its own zero padding alone, whatever stands after it (R70). -/
theorem decodeFS_packBytes {text : List Byte} (h : text.length ≤ 65535) (after : List Word) :
    decodeFS (headerFS 0x17#8 (BitVec.ofNat 16 text.length)) (packBytes text ++ after) = .request (.printstr text) := by
  have hlen : (BitVec.ofNat 16 text.length).toNat = text.length := by simp; omega
  have htake : (packBytes text ++ after).take (payloadWords text.length) = packBytes text := by
    rw [← packBytes_length, List.take_left]
  obtain ⟨k, hbytes⟩ := bytesOfWords_packBytes text
  simp [decodeFS, hlen, htake, hbytes, packBytes_length]

/-- The decoder on the words of a well-formed request, whatever follows them. -/
theorem decodeRequest_encode {i : Instr} (hw : i.wellFormed = true) (hr : i.isRequest = true) (after : List Word) :
    ∃ w ws, encode i = w :: ws ∧ decodeRequest w (ws ++ after) = .request i := by
  cases i with
  | setCursor col row =>
    refine ⟨_, _, rfl, (decodeRequest_setCursor (fieldOp_headerF2 ..) _).trans ?_⟩
    simp [decodeF2, headerF2]
  | command v => exact ⟨_, _, rfl, (decodeRequest_command (fieldOp_headerF1 ..) _).trans (decodeF1_headerF1 ..)⟩
  | write v => exact ⟨_, _, rfl, (decodeRequest_write (fieldOp_headerF1 ..) _).trans (decodeF1_headerF1 ..)⟩
  | createChar slot g =>
    exact ⟨_, _, rfl, (decodeRequest_createChar (fieldOp_headerF1 ..) _).trans (decodeFC_packed slot g after)⟩
  | printstr text =>
    exact ⟨_, _, rfl, (decodeRequest_printstr (fieldOp_headerFS ..) _).trans (decodeFS_packBytes (by simpa using hw) after)⟩
  | lcdClear | lcdHome | lcdEntryMode | lcdDisplayControl | lcdShift | lcdFunctionSet | lcdSetCgram | lcdSetDdram =>
    cases hr
  | _ => exact ⟨_, _, rfl, decodeRequest_of_header (by decide) (by decide) (by decide) _⟩

/-- Settles O2: the decoder on the header of each format, with the payload that the encoder packed. -/
theorem encodedRequestDecodesToItself : Obligations.EncodedRequestDecodesToItself := by
  intro i before after hw hr
  obtain ⟨w, ws, hwords, hdecode⟩ := decodeRequest_encode hw hr after
  refine ⟨?_, encode_length hw⟩
  rw [hwords, List.append_assoc, List.cons_append, decode_append_length, hdecode]

/-! ## The encoder on decoded words -/

/-- The encoding of `i` is the first of the words `ws`, as many as its length says, and `i` is a well-formed request. -/
def EncodesTo (i : Instr) (ws : List Word) : Prop :=
  encode i = ws.take (lengthOf i) ∧ i.wellFormed = true ∧ i.isRequest = true

/-- The requests of format F0 are those whose opcode reserves bits 23:0 (R67, R68). -/
theorem encodesTo_headerF0 {i : Instr} (mask : reservedMask (opcodeOf i) = 0x00FFFFFF#32) (range : (opcodeOf i).toNat < 0x17)
    (rest : List Word) : EncodesTo i (headerF0 (opcodeOf i) :: rest) := by
  cases i with
  | printstr text => exact absurd range (by simp [opcodeOf])
  | setCursor | createChar | command | write | lcdClear | lcdHome | lcdEntryMode | lcdDisplayControl | lcdShift
  | lcdFunctionSet | lcdSetCgram | lcdSetDdram => simp [opcodeOf, reservedMask] at mask
  | _ => exact ⟨rfl, rfl, rfl⟩

theorem decodeFC_encodesTo {w : Word} {rest : List Word} {i : Instr} (hop : fieldOp w = 0x11#8)
    (h : decodeFC w rest = .request i) : EncodesTo i (w :: rest) := by
  unfold decodeFC at h
  split at h
  · next hz =>
    split at h
    · next p0 p1 more =>
      obtain rfl := Decoded.request.inj h
      have hw : headerF1 0x11#8 (fieldA w) = w := by
        conv_rhs => rw [← wordOfBytes_fields w, hop, hz.1, hz.2]
        rfl
      refine ⟨?_, rfl, rfl⟩
      simp [encode, opcodeOf, hw, wordOfBytes_fields, lengthOf]
    · cases h
  · cases h

/-- Packing the string a payload held gives the payload back, its padding being zero (R70, R72). -/
theorem decodeFS_encodesTo {w : Word} {rest : List Word} {i : Instr} (hop : fieldOp w = 0x17#8)
    (h : decodeFS w rest = .request i) : EncodesTo i (w :: rest) := by
  obtain ⟨text, rfl, hlength⟩ := decodeFS_request h
  have hlt : fieldLen w < 2 ^ 16 := BitVec.isLt _
  unfold decodeFS at h
  split at h
  · next hA =>
    split at h
    · cases h
    · next hlong =>
      simp only at h
      split at h
      · next hpad =>
        have htext := Instr.printstr.inj (Decoded.request.inj h)
        have hpack := packBytes_bytesOfWords (rest.take (payloadWords (fieldLen w))) (fieldLen w)
          (List.length_take_of_le (Nat.le_of_not_lt hlong)).symm hpad
        rw [htext] at hpack
        refine ⟨?_, by simp; omega, rfl⟩
        rw [encode, hpack, hlength, opcodeOf, ← hop, headerFS_fields w hA, lengthOf, hlength, Nat.add_comm 1,
          List.take_succ_cons]
      · cases h
  · cases h

/-- What the decoder makes of a header and the words after it encodes to them. -/
theorem decodeRequest_encodesTo {w : Word} {rest : List Word} {i : Instr} (h : decodeRequest w rest = .request i) :
    EncodesTo i (w :: rest) := by
  by_cases h15 : fieldOp w = 0x15#8
  · obtain ⟨rfl, hw⟩ := decodeF1_request h15 ((decodeRequest_command h15 rest).symm.trans h)
    exact ⟨congrArg (fun w => [w]) hw, rfl, rfl⟩
  by_cases h16 : fieldOp w = 0x16#8
  · obtain ⟨rfl, hw⟩ := decodeF1_request h16 ((decodeRequest_write h16 rest).symm.trans h)
    exact ⟨congrArg (fun w => [w]) hw, rfl, rfl⟩
  generalize hd : decodeRequest w rest = d at h
  have hform := decodeRequest_form w rest
  rw [hd] at hform
  cases hform with
  | f0 op mask range len =>
    obtain ⟨rfl, hw⟩ := decodeF0_request op h
    rw [← hw]
    exact encodesTo_headerF0 mask range.2 rest
  | f1 op => exact absurd op (by simp [h15, h16])
  | f2 op =>
    obtain ⟨rfl, hw⟩ := decodeF2_request op h
    exact ⟨congrArg (fun w => [w]) hw, rfl, rfl⟩
  | fC op => exact decodeFC_encodesTo op h
  | fS op => exact decodeFS_encodesTo op h
  | reserved op => cases h

/-- A request that decodes has its header and the words after it at its position. -/
theorem decode_request_words {ws : List Word} {pc : Nat} {i : Instr} (h : decode ws pc = .request i) :
    ∃ w rest, ws.drop pc = w :: rest ∧ decodeRequest w rest = .request i := by
  unfold decode at h
  split at h
  · cases h
  · next w rest hdrop => exact ⟨w, rest, hdrop, h⟩

/-- Settles O3: by the format of the header, its fields and its payload packed again are the words they were read from. -/
theorem decodedRequestEncodesToItsWords : Obligations.DecodedRequestEncodesToItsWords := by
  intro ws pc i h
  obtain ⟨w, rest, hdrop, hrequest⟩ := decode_request_words h
  rw [hdrop]
  exact decodeRequest_encodesTo hrequest

/-! ## Appended words (R48, R73) -/

theorem decodeFC_append {w : Word} {rest : List Word} (h : decodeFC w rest ≠ .incomplete) (more : List Word) :
    decodeFC w (rest ++ more) = decodeFC w rest := by
  unfold decodeFC at h ⊢
  split
  · next hz =>
    rw [if_pos hz] at h
    match rest with
    | p0 :: p1 :: _ => rfl
    | [] | [_] => exact absurd rfl h
  · rfl

theorem decodeFS_append {w : Word} {rest : List Word} (h : decodeFS w rest ≠ .incomplete) (more : List Word) :
    decodeFS w (rest ++ more) = decodeFS w rest := by
  unfold decodeFS at h ⊢
  split
  · next hA =>
    rw [if_pos hA] at h
    by_cases hshort : rest.length < payloadWords (fieldLen w)
    · exact absurd (if_pos hshort) h
    · rw [if_neg hshort, if_neg (by rw [List.length_append]; omega),
        List.take_append_of_le_length (Nat.le_of_not_lt hshort)]
  · rfl

/-- Words after a request that is not incomplete do not change it: only a payload is read beyond the header, and it is there. -/
theorem decodeRequest_append {w : Word} {rest : List Word} (h : decodeRequest w rest ≠ .incomplete) (more : List Word) :
    decodeRequest w (rest ++ more) = decodeRequest w rest := by
  by_cases h11 : fieldOp w = 0x11#8
  · rw [decodeRequest_createChar h11] at h ⊢
    rw [decodeRequest_createChar h11, decodeFC_append h]
  by_cases h17 : fieldOp w = 0x17#8
  · rw [decodeRequest_printstr h17] at h ⊢
    rw [decodeRequest_printstr h17, decodeFS_append h]
  · rw [decodeRequest_of_short h11 h17, decodeRequest_of_short h11 h17 rest]

theorem decode_append {ws : List Word} {pc : Nat} (hnone : decode ws pc ≠ .none) (hinc : decode ws pc ≠ .incomplete)
    (more : List Word) : decode (ws ++ more) pc = decode ws pc := by
  unfold decode at hnone hinc ⊢
  cases hdrop : ws.drop pc with
  | nil => rw [hdrop] at hnone; exact absurd rfl hnone
  | cons w rest =>
    have hlt : pc < ws.length := by
      by_contra hge
      rw [List.drop_eq_nil_of_le (Nat.le_of_not_lt hge)] at hdrop
      cases hdrop
    rw [hdrop] at hinc
    rw [List.drop_append_of_le_length hlt.le, hdrop]
    exact decodeRequest_append hinc more

/-- Settles O7: a request that is whole, or illegal, is neither missing nor incomplete, so what is appended is not read. -/
theorem appendedWordsNeverChangeADecodedRequest : Obligations.AppendedWordsNeverChangeADecodedRequest :=
  fun _ more _ =>
    ⟨fun _ h => (decode_append (by simp [h]) (by simp [h]) more).trans h,
      fun _ h => (decode_append (by simp [h]) (by simp [h]) more).trans h⟩

/-! ## HD44780 command bytes (R77) -/

theorem decodeLcd_lcdByte {i : Instr} {b : Byte} (h : lcdByte i = some b) : decodeLcd b = some i := by
  cases i with
  | lcdClear => cases h; decide
  | lcdHome x => cases h; revert x; decide
  | lcdEntryMode id s => cases h; revert id s; decide
  | lcdDisplayControl d c b => cases h; revert d c b; decide
  | lcdShift sc rl x => cases h; revert sc rl x; decide
  | lcdFunctionSet dl n f x => cases h; revert dl n f x; decide
  | lcdSetCgram addr => cases h; revert addr; decide
  | lcdSetDdram addr => cases h; revert addr; decide
  | _ => cases h

/-- Every byte but 0x00 matches a row, whose byte it is. -/
theorem lcdByte_decodeLcd : ∀ b : Byte, (decodeLcd b).bind lcdByte = if b = 0#8 then none else some b := by decide

/-- Settles O4: each row's byte, with its fields at every value, and each of the 256 bytes. -/
theorem commandByteRowsRoundTrip : Obligations.CommandByteRowsRoundTrip := by
  refine ⟨fun i b => decodeLcd_lcdByte, fun i b h => ?_, fun b => ⟨fun h => ?_, fun h => ?_⟩⟩
  · have hrow := lcdByte_decodeLcd b
    have hb : b ≠ 0#8 := by rintro rfl; cases h
    rwa [h, if_neg hb] at hrow
  · have hrow := lcdByte_decodeLcd b
    rw [h] at hrow
    by_contra hb
    simp [hb] at hrow
  · rw [h]; rfl

/-- Settles O1: the ten words, each run through the decoder. -/
theorem decodesSampleWords : Obligations.DecodesSampleWords := by
  unfold Obligations.DecodesSampleWords
  decide

end Sys2Proof.Machine
end

section
/-! SUPPORT. When the block has a step (R83), and the rules of one step and of one instruction that are read off its two ways to
answer: it takes a fault, or it runs and completes. -/

namespace Sys2Proof.Machine

/-! ## When there is a step (R83) -/

/-- Settles O9: the block is not halted, so the step is what is made of the fetched request. -/
theorem stepRunsTheDecodedRequest : Obligations.StepRunsTheDecodedRequest :=
  fun _ _ hf hd => step_of_fetch hf hd

/-- In a block without a fault every instruction answers a next state. -/
theorem exec_next {s : State} (hf : s.fault = none) (i : Instr) : ∃ t, exec i s = .next t := by
  by_cases hi : i = .init
  · subst hi
    exact ⟨_, exec_init hf⟩
  · cases hc : s.initCalled with
    | false => exact ⟨_, exec_of_uncalled hf hc hi⟩
    | true => exact ⟨_, exec_accepts ⟨hf, hc⟩ i⟩

theorem runStatus_of_fault {s : State} {f : FaultCode} (h : s.fault = some f) : runStatus s = .faulted := by
  rw [runStatus, h]

/-- How the run of a block without a fault stands, by what it fetches, and what its step then answers. -/
theorem step_of_runStatus {s : State} (hf : s.fault = none) :
    (runStatus s = .running ∧ ∃ t, step s = .next t) ∨ (runStatus s = .finished ∧ step s = .fault .idle) ∨
      (runStatus s = .stuck ∧ step s = .fault .incomplete) := by
  cases hd : fetch s with
  | none => exact .inr (.inl ⟨by rw [runStatus, hf, hd], step_of_fetch hf hd⟩)
  | incomplete => exact .inr (.inr ⟨by rw [runStatus, hf, hd], step_of_fetch hf hd⟩)
  | illegal why => exact .inl ⟨by rw [runStatus, hf, hd], _, step_of_fetch hf hd⟩
  | request i => exact .inl ⟨by rw [runStatus, hf, hd], by rw [step_of_fetch hf hd]; exact exec_next hf i⟩

/-- Settles O10: a fault halts, and without one the fetch decides. -/
theorem stepExistsExactlyWhileRunning : Obligations.StepExistsExactlyWhileRunning := by
  intro s
  cases hf : s.fault with
  | some f => simp [runStatus_of_fault hf, step_halted hf]
  | none =>
    obtain ⟨hr, t, hs⟩ | ⟨hr, hs⟩ | ⟨hr, hs⟩ := step_of_runStatus hf
    · simp [hr, hs]
    · simp [hr, hs]
    · simp [hr, hs]

/-- The oracle is no part of how a run stands. -/
theorem runStatus_outcomes (s : State) (os : List TxOutcome) : runStatus { s with outcomes := os } = runStatus s := rfl

/-- Settles O12: how a run stands says whether it has a step and why not, and does not depend on the oracle. -/
theorem outcomesNeverDecideWhetherThereIsAStep : Obligations.OutcomesNeverDecideWhetherThereIsAStep := by
  intro s os
  obtain ⟨hrunning, hfinished, hstuck, hfaulted⟩ := stepExistsExactlyWhileRunning s
  obtain ⟨hrunning', hfinished', hstuck', hfaulted'⟩ := stepExistsExactlyWhileRunning { s with outcomes := os }
  rw [runStatus_outcomes] at hrunning' hfinished' hstuck' hfaulted'
  cases hr : runStatus s with
  | running =>
    obtain ⟨t, ht⟩ := hrunning hr
    exact ⟨fun _ _ => hrunning' hr, fun f h => by rw [ht] at h; cases h⟩
  | finished => simp [hfinished hr, hfinished' hr]
  | stuck => simp [hstuck hr, hstuck' hr]
  | faulted =>
    obtain ⟨f, hf, hs⟩ := hfaulted hr
    have hs' : step { s with outcomes := os } = .fault (.halted f) := step_halted hf
    simp [hs, hs']

/-- Settles O36: the first of the steps halts. -/
theorem aFaultedBlockNeverStepsAgain : Obligations.AFaultedBlockNeverStepsAgain := by
  intro s f k h
  have hstep : core.step s = .fault (.halted f) := step_halted h
  simp only [Host.Core.run, hstep]

/-! ## A fault or a run -/

/-- An instruction that answers a next state takes a fault, or runs and completes without one. -/
theorem exec_raise_or_ran {i : Instr} {s t : State} (h : exec i s = .next t) :
    (∃ f, t = raise f s) ∨ (t = ran i s ∧ t.fault = none) := by
  obtain ⟨hf, ⟨-, -, ht⟩ | ⟨f, -, -, ht⟩ | ⟨-, -, rfl⟩⟩ := exec_cases h
  · exact .inl ⟨_, ht⟩
  · exact .inl ⟨f, ht⟩
  · exact .inr ⟨rfl, (ran_fault i s).trans hf⟩

/-- An instruction that completes has run. -/
theorem exec_ran {i : Instr} {s t : State} (h : exec i s = .next t) (hf : t.fault = none) : t = ran i s := by
  obtain ⟨f, rfl⟩ | ⟨rfl, -⟩ := exec_raise_or_ran h
  · cases hf
  · rfl

/-- A step takes a fault, or runs an instruction to its end. -/
theorem step_raise_or_ran {s t : State} (h : step s = .next t) :
    (∃ f, t = raise f s) ∨ ∃ i, t = ran i s ∧ t.fault = none := by
  obtain ⟨-, ⟨why, -, rfl⟩ | ⟨i, -, hi⟩⟩ := step_cases h
  · exact .inl ⟨_, rfl⟩
  · exact (exec_raise_or_ran hi).imp_right fun hran => ⟨i, hran⟩

/-- Settles O35: it completes without a fault when it runs, and a fault it takes is `raise`. -/
theorem faultsArePrecise : Obligations.FaultsArePrecise := by
  intro i s t f h htf
  obtain ⟨g, rfl⟩ | ⟨-, hnone⟩ := exec_raise_or_ran h
  · obtain rfl : g = f := Option.some.inj htf
    exact raise_eq_Faulted g s
  · rw [hnone] at htf
    cases htf

/-- Settles O38: a fault emits nothing, and a run its expansion. -/
theorem traceOnlyGrowsAndTxIsCounted : Obligations.TraceOnlyGrowsAndTxIsCounted := by
  intro s t h
  obtain ⟨f, rfl⟩ | ⟨i, rfl, -⟩ := step_raise_or_ran h
  · exact ⟨[], (List.append_nil _).symm, rfl⟩
  · exact ⟨_, ran_trace i s, ran_txn i s⟩

/-- Settles O39: a fault keeps `S.pc`, a run advances it. -/
theorem positionAdvancesByTheLength : Obligations.PositionAdvancesByTheLength := by
  intro i s t h
  obtain ⟨f, rfl⟩ | ⟨rfl, hnone⟩ := exec_raise_or_ran h
  · exact ⟨nofun, fun _ => raise_pc s f⟩
  · exact ⟨fun _ => ran_pc i s, fun hsome => absurd hnone hsome⟩

/-! ## Responses (R74) -/

theorem status_completedWord (val : BitVec 16) : (completedWord val).extractLsb' 30 2 = 0#2 := by
  rw [completedWord_eq]
  ext k hk
  simp only [BitVec.getElem_extractLsb', BitVec.getLsbD_setWidth, BitVec.getElem_zero]
  rw [BitVec.getLsbD_of_ge _ _ (by omega), Bool.and_false]

theorem legalResponse_completedWord (val : BitVec 16) : legalResponse (completedWord val) = true := by
  have hmiddle : (completedWord val).extractLsb' 16 14 = 0#14 := by
    rw [completedWord_eq]
    ext k hk
    simp
  rw [legalResponse, hmiddle, status_completedWord]
  rfl

theorem codeOf_mem (f : FaultCode) : codeOf f ∈ [0x01#8, 0x02#8, 0x03#8, 0x04#8] := by
  cases f <;> simp [codeOf]

theorem faultedWord_codeOf (f : FaultCode) : legalResponse (faultedWord (codeOf f)) = true ∧
    (faultedWord (codeOf f)).extractLsb' 30 2 = 1#2 := by
  have key : ∀ c ∈ [0x01#8, 0x02#8, 0x03#8, 0x04#8], legalResponse (faultedWord c) = true ∧
      (faultedWord c).extractLsb' 30 2 = 1#2 := by decide
  exact key _ (codeOf_mem f)

/-- Settles O40: the one response of a fault has the status 0b01, that of a completion 0b00. -/
theorem eachStepAnswersOneResponse : Obligations.EachStepAnswersOneResponse := by
  intro s t h
  obtain ⟨f, rfl⟩ | ⟨i, rfl, hnone⟩ := step_raise_or_ran h
  · obtain ⟨hlegal, hstatus⟩ := faultedWord_codeOf f
    exact ⟨_, raise_responses s f, hlegal, iff_of_true hstatus (by simp)⟩
  · refine ⟨_, ran_responses i s, legalResponse_completedWord _, iff_of_false ?_ (not_not_intro hnone)⟩
    rw [status_completedWord]
    decide

/-! ## The access table (R39) -/

theorem setup_dfun {i : Instr} (h : i ≠ .init) (s : State) : (setup i s).dfun = s.dfun := by
  cases i with
  | init => exact absurd rfl h
  | _ => rfl

theorem setup_sameInit {i : Instr} (h : i ≠ .init) (s : State) : SameInit s (setup i s) := by
  cases i with
  | init => exact absurd rfl h
  | _ => exact ⟨rfl, rfl⟩

theorem setup_dctl_of_not_writes {i : Instr} (h : writesDctl i = false) (s : State) : (setup i s).dctl = s.dctl := by
  cases i with
  | init | displayOn | displayOff | cursorOn | cursorOff | blinkOn | blinkOff => cases h
  | _ => rfl

theorem setup_dmode_of_not_writes {i : Instr} (h : writesDmode i = false) (s : State) : (setup i s).dmode = s.dmode := by
  cases i with
  | init | leftToRight | rightToLeft | autoscrollOn | autoscrollOff => cases h
  | _ => rfl

theorem setup_bl_of_not_writes {i : Instr} (h : writesBl i = false) (s : State) : (setup i s).bl = s.bl := by
  cases i with
  | backlightOn | backlightOff => cases h
  | _ => rfl

/-- GET_BACKLIGHT has the empty expansion (R134). -/
theorem ran_getBacklight (s : State) :
    (ran .getBacklight s).trace = s.trace ∧ (ran .getBacklight s).txn = s.txn ∧
      (ran .getBacklight s).syncLost = s.syncLost := ⟨rfl, rfl, rfl⟩

/-- Settles O41: a fault writes none of these fields, and a run writes what the instruction's setup wrote, its expansion being
quiet unless it is INIT's. -/
theorem instructionsWriteOnlyTheirFields : Obligations.InstructionsWriteOnlyTheirFields := by
  intro i s t h
  have hparams := exec_sameParameters h
  obtain ⟨f, rfl⟩ | ⟨rfl, -⟩ := exec_raise_or_ran h
  · exact ⟨fun _ => ⟨rfl, rfl, rfl⟩, fun _ => rfl, fun _ => rfl, fun _ => rfl, fun _ => ⟨rfl, rfl, rfl⟩, hparams⟩
  · refine ⟨fun hi => ?_, fun hw => ?_, fun hw => ?_, fun hw => ?_, fun hi => ?_, hparams⟩
    · obtain ⟨hdfun, -, -, hstate⟩ := ran_registers hi s
      obtain ⟨hcalled, hstate'⟩ := setup_sameInit hi s
      exact ⟨hdfun.trans (setup_dfun hi s), (ran_initCalled i s).trans hcalled, hstate.trans hstate'⟩
    · have hi : i ≠ .init := by rintro rfl; cases hw
      exact (ran_registers hi s).2.1.trans (setup_dctl_of_not_writes hw s)
    · have hi : i ≠ .init := by rintro rfl; cases hw
      exact (ran_registers hi s).2.2.1.trans (setup_dmode_of_not_writes hw s)
    · exact (ran_bl i s).trans (setup_bl_of_not_writes hw s)
    · subst hi
      exact ran_getBacklight s

/-! ## Construction and reset (R41, R157) -/

/-- Settles O42: `State.reset` is a new block with the default masks, which are legal. -/
theorem resetMeetsTheInvariant : Obligations.ResetMeetsTheInvariant := fresh_inv rfl Cfg.atReset

/-- Settles O57: what `construct` builds is the new block, whose address has survived its seven bits. -/
theorem constructedBlockHoldsTheResetValues : Obligations.ConstructedBlockHoldsTheResetValues := by
  intro addr cols rows charsize p s h
  unfold construct at h
  split at h
  · next hlegal =>
    obtain rfl := Host.Outcome.next.inj h
    exact ⟨rfl, rfl, rfl, rfl, rfl, rfl, rfl, rfl, rfl, rfl, rfl,
      (BitVec.toNat_ofNat ..).trans (Nat.mod_eq_of_lt (by omega)), rfl, rfl, rfl, rfl⟩
  · cases h

/-! ## The function-set bits (R103) -/

/-- Both bits, with the number of rows as a number. -/
theorem funBits_eq (cfg : Cfg) : funBits cfg = (if 2 ≤ cfg.rows.toNat then twoLine else 0x00#8) |||
    (if cfg.charsize = .dots5x10 ∧ cfg.rows.toNat = 1 then dots5x10Bit else 0x00#8) := by
  have hgt : cfg.rows > 1#8 ↔ 2 ≤ cfg.rows.toNat := Iff.rfl
  have heq : cfg.rows = 1#8 ↔ cfg.rows.toNat = 1 := BitVec.toNat_inj.symm
  simp only [funBits, hgt, heq]

/-- Settles O20: the two bits of R103, by the number of rows. -/
theorem functionSetBitsFollowTheConfiguration : Obligations.FunctionSetBitsFollowTheConfiguration := by
  refine ⟨fun cfg h => ?_, fun cfg h hc => ?_, fun cfg h hc => ?_, fun cfg h => ?_⟩
  · rw [funBits_eq, if_pos h, if_neg (by omega)]; decide
  · rw [funBits_eq, if_neg (by omega), if_pos ⟨hc, h⟩]; decide
  · rw [funBits_eq, if_neg (by omega), if_neg (by simp [hc])]; decide
  · rw [funBits_eq, if_neg (by omega), if_neg (by omega)]; decide

end Sys2Proof.Machine
end

section
/-! SUPPORT. What an expansion puts on the bus: bytes whose bits outside the data nibble, RS and Enable are the backlight bit alone
(R75, R87), and the waits of R10. From it the invariant (R9, R23 to R32, R74) and the backlight history (R94, R135). -/

namespace Sys2Proof.Machine

/-! ## Bytes and waits of an expansion -/

/-- The mask `m` keeps clear of what an expansion drives itself: the data nibble, RS and Enable. -/
structure Spares (p : Masks) (m : Byte) : Prop where
  data : 0xF0#8 &&& m = 0#8
  rs : p.rs &&& m = 0#8
  en : p.en &&& m = 0#8

theorem spares_rw {p : Masks} (h : p.Apart) : Spares p p.rw := ⟨h.data_rw, h.rs_rw, h.en_rw⟩

theorem spares_bl {p : Masks} (h : p.Apart) : Spares p p.bl := ⟨h.data_bl, h.rs_bl, h.en_bl⟩

/-- An item that drives no bit of `m` and waits only as R10 lists. -/
def Act.tame (m : Byte) : Act → Bool
  | .out d => d &&& m == 0#8
  | .wait t => legalWait t
  | _ => true

theorem write4bits_tame {p : Masks} {m n : Byte} (h : Spares p m) (hn : n &&& m = 0#8) :
    (write4bits p n).all (Act.tame m) = true := by
  have hhigh : (n ||| p.en) &&& m = 0#8 := or_and_zero hn h.en
  have hlow : (n &&& ~~~p.en) &&& m = 0#8 := and_and_zero_right hn
  simp [write4bits, pulseEnable, Act.tame, hn, hhigh, hlow, legalWait, tEnHold, tExec]

theorem modeBit_and {p : Masks} {m : Byte} (h : Spares p m) (mode : Mode) : modeBit p mode &&& m = 0#8 := by
  cases mode with
  | cmd => exact BitVec.zero_and
  | data => exact h.rs

theorem send_tame {p : Masks} {m : Byte} (h : Spares p m) (v : Byte) (mode : Mode) :
    (send p v mode).all (Act.tame m) = true := by
  rw [send, List.all_append, write4bits_tame h, write4bits_tame h]
  · rfl
  · exact or_and_zero (and_and_zero_left h.data) (modeBit_and h mode)
  · exact or_and_zero (and_and_zero_left h.data) (modeBit_and h mode)

theorem sendAll_tame {p : Masks} {m : Byte} (h : Spares p m) (bs : List Byte) :
    (sendAll p bs).all (Act.tame m) = true := by
  induction bs with
  | nil => rfl
  | cons b bs ih => rw [sendAll, List.all_append, send_tame h, ih]; rfl

theorem initPlan_tame {p : Masks} {m : Byte} (h : Spares p m) (cfg : Cfg) :
    (initPlan p cfg).all (Act.tame m) = true := by
  have h30 : nibble8Bit &&& m = 0#8 := (and_and_zero_left h.data : (nibble8Bit &&& 0xF0#8) &&& m = 0#8)
  have h20 : nibble4Bit &&& m = 0#8 := (and_and_zero_left h.data : (nibble4Bit &&& 0xF0#8) &&& m = 0#8)
  simp [initPlan, List.all_append, write4bits_tame h h30, write4bits_tame h h20, send_tame h, Act.tame, legalWait,
    tPowerUp, tExpReset, tInit1, tInit2, tInit3, tClearHome]

/-- Every instruction's expansion is tame. -/
theorem expansion_tame {m : Byte} {s : State} (h : Spares s.masks m) (i : Instr) :
    (expansion i s).all (Act.tame m) = true := by
  cases i with
  | init => exact initPlan_tame h s.cfg
  | clear | home => rw [expansion, List.all_append, send_tame h]; rfl
  | createChar slot g => rw [expansion, List.all_append, send_tame h, sendAll_tame h]; rfl
  | printstr text => exact sendAll_tame h text
  | backlightOn | backlightOff => simp [expansion, Act.tame]
  | getBacklight => rfl
  | _ => exact send_tame h _ _

/-- Each byte of a tame expansion carries, under `m`, what the packed backlight bit does. -/
theorem outsOf_byte_and {m : Byte} {plan : Plan} (h : plan.all (Act.tame m) = true) {c b : Byte}
    (hb : .byte b ∈ outsOf c plan) : b &&& m = c &&& m := by
  induction plan with
  | nil => cases hb
  | cons a as ih =>
    rw [List.all_cons, Bool.and_eq_true] at h
    cases a with
    | out d =>
      rw [outsOf, List.mem_cons] at hb
      rcases hb with hb | hb
      · obtain rfl := Out.byte.inj hb
        exact or_and_of_left (by simpa [Act.tame] using h.1)
      · exact ih h.2 hb
    | busBegin | wait => rw [outsOf, List.mem_cons] at hb; exact ih h.2 (hb.resolve_left nofun)
    | _ => exact ih h.2 hb

theorem outsOf_wait_legal {m : Byte} {plan : Plan} (h : plan.all (Act.tame m) = true) {c : Byte} {t : Nat}
    (ht : .wait t ∈ outsOf c plan) : legalWait t = true := by
  induction plan with
  | nil => cases ht
  | cons a as ih =>
    rw [List.all_cons, Bool.and_eq_true] at h
    cases a with
    | wait u =>
      rw [outsOf, List.mem_cons] at ht
      rcases ht with ht | ht
      · obtain rfl := Out.wait.inj ht
        exact h.1
      · exact ih h.2 ht
    | busBegin | out => rw [outsOf, List.mem_cons] at ht; exact ih h.2 (ht.resolve_left nofun)
    | _ => exact ih h.2 ht

theorem backlightBit_and_rw {p : Masks} (hp : p.Apart) (b : Bool) : backlightBit p b &&& p.rw = 0#8 := by
  cases b with
  | true => exact hp.bl_rw
  | false => exact BitVec.zero_and

theorem backlightBit_and_bl {p : Masks} (hp : p.Apart) (b : Bool) : backlightBit p b &&& p.bl ≠ 0#8 ↔ b = true := by
  cases b with
  | true => simp [backlightBit, hp.bl_ne]
  | false => simp [backlightBit]

/-! ## Events of an emission -/

/-- An event of an emission is an item of the expansion: a transaction to the block's address with its result of R85, a wait, or
the bus start. -/
theorem mem_emission {a : BusAddr} {omega : Nat → TxOutcome} {xs : List Out} {e : Event} : ∀ {n : Nat},
    e ∈ emission a omega n xs →
      e = .busBegin ∨ (∃ t, e = .wait t ∧ .wait t ∈ xs) ∨ ∃ b o, e = txEvent a b o ∧ .byte b ∈ xs := by
  induction xs with
  | nil => intro n h; cases h
  | cons x xs ih =>
    have later {n : Nat} (h : e ∈ emission a omega n xs) : e = .busBegin ∨ (∃ t, e = .wait t ∧ .wait t ∈ x :: xs) ∨
        ∃ b o, e = txEvent a b o ∧ .byte b ∈ x :: xs :=
      (ih h).imp_right (.imp (fun ⟨t, he, hm⟩ => ⟨t, he, .tail _ hm⟩) fun ⟨b, o, he, hm⟩ => ⟨b, o, he, .tail _ hm⟩)
    intro n h
    cases x with
    | busBegin =>
      rcases List.mem_cons.mp h with he | h
      · exact .inl he
      · exact later h
    | wait t =>
      rcases List.mem_cons.mp h with he | h
      · exact .inr (.inl ⟨t, he, .head _⟩)
      · exact later h
    | byte b =>
      rcases List.mem_cons.mp h with he | h
      · exact .inr (.inr ⟨b, omega n, he, .head _⟩)
      · split at h
        · exact later h
        · cases h

theorem mem_txBytes {b : Byte} {es : List Event} (h : b ∈ txBytes es) : ∃ a c st ok, .tx a b c st ok ∈ es := by
  induction es with
  | nil => cases h
  | cons e es ih =>
    have later (h : b ∈ txBytes es) : ∃ a c st ok, .tx a b c st ok ∈ e :: es :=
      let ⟨a, c, st, ok, hm⟩ := ih h; ⟨a, c, st, ok, .tail _ hm⟩
    cases e with
    | tx a b' c st ok =>
      rcases List.mem_cons.mp h with rfl | h
      · exact ⟨a, c, st, ok, .head _⟩
      · exact later h
    | _ => exact later h

theorem mem_txBytes_emission {a : BusAddr} {omega : Nat → TxOutcome} {n : Nat} {xs : List Out} {b : Byte}
    (h : b ∈ txBytes (emission a omega n xs)) : .byte b ∈ xs := by
  obtain ⟨a', c, st, ok, hm⟩ := mem_txBytes h
  obtain he | ⟨t, he, -⟩ | ⟨b', o, he, hx⟩ := mem_emission hm
  · cases he
  · cases he
  · cases he; exact hx

/-- Under a mask the expansion spares, every byte an instruction sends shows the backlight flag it packs. -/
theorem busExpansion_byte_and {s : State} {m : Byte} (h : Spares s.masks m) {i : Instr} {b : Byte}
    (hb : .byte b ∈ busExpansion i s) : b &&& m = backlightBit s.masks (setup i s).bl &&& m :=
  outsOf_byte_and (expansion_tame h i) hb

/-! ## The record of a block: its trace and its responses -/

theorem emission_legal {i : Instr} {s : State} (hp : s.masks.Apart) :
    ∀ e ∈ emission s.cfg.addr s.omega s.txn (busExpansion i s), legalEvent s.cfg s.masks e = true := by
  intro e he
  obtain rfl | ⟨t, rfl, ht⟩ | ⟨b, o, rfl, hb⟩ := mem_emission he
  · rfl
  · exact outsOf_wait_legal (expansion_tame (spares_rw hp) i) ht
  · have hrw : b &&& s.masks.rw = 0#8 := by
      rw [busExpansion_byte_and (spares_rw hp) hb, backlightBit_and_rw hp]
    simp [txEvent, legalEvent, txOk, hrw]

theorem ran_events_legal {s : State} (h : s.Inv) (i : Instr) :
    ∀ e ∈ (ran i s).trace, legalEvent (ran i s).cfg (ran i s).masks e = true := by
  rw [ran_trace, ran_cfg, ran_masks]
  exact List.forall_mem_append.mpr ⟨h.events, emission_legal (Masks.apart_of_legal h.masks)⟩

theorem ran_txn_eq_txCount {s : State} (h : s.Inv) (i : Instr) : (ran i s).txn = txCount (ran i s).trace := by
  rw [ran_txn, ran_trace, txCount_append, h.txn]

theorem legalResponse_append {rs : List Word} {r : Word} (hrs : ∀ r ∈ rs, legalResponse r = true)
    (hr : legalResponse r = true) : ∀ q ∈ rs ++ [r], legalResponse q = true :=
  List.forall_mem_append.mpr ⟨hrs, List.forall_mem_singleton.mpr hr⟩

theorem ran_responses_legal {s : State} (h : s.Inv) (i : Instr) :
    ∀ r ∈ (ran i s).responses, legalResponse r = true := by
  rw [ran_responses]
  exact legalResponse_append h.responses (legalResponse_completedWord _)

/-! ## The shadows (R23 to R26) -/

/-- A shadow that has been written holds `k` bits. -/
def FitsIn (k : Nat) (shadow : Option Byte) : Prop := ∀ c, shadow = some c → c.toNat < 2 ^ k

theorem fitsIn_some {k : Nat} {v : Byte} (h : v.toNat < 2 ^ k) : FitsIn k (some v) := by
  rintro c ⟨⟩
  exact h

theorem getD_lt_of_fitsIn {k : Nat} {shadow : Option Byte} (h : FitsIn k shadow) : (shadow.getD 0#8).toNat < 2 ^ k := by
  cases shadow with
  | none => exact Nat.two_pow_pos k
  | some c => exact h c rfl

theorem fitsIn_setBits {k : Nat} {m : Byte} {shadow : Option Byte} (h : FitsIn k shadow) (hm : m.toNat < 2 ^ k) :
    FitsIn k (some (setBits m (shadow.getD 0#8))) := by
  refine fitsIn_some ?_
  rw [setBits, BitVec.toNat_or]
  exact Nat.or_lt_two_pow (getD_lt_of_fitsIn h) hm

theorem fitsIn_clearBits {k : Nat} (m : Byte) {shadow : Option Byte} (h : FitsIn k shadow) :
    FitsIn k (some (clearBits m (shadow.getD 0#8))) := by
  refine fitsIn_some ?_
  rw [clearBits, BitVec.toNat_and]
  exact Nat.lt_of_le_of_lt Nat.and_le_left (getD_lt_of_fitsIn h)

theorem fitsIn_setup_dctl {s : State} (h : FitsIn 3 s.dctl) (i : Instr) : FitsIn 3 (setup i s).dctl := by
  cases i with
  | displayOn | cursorOn | blinkOn => exact fitsIn_setBits h (by decide)
  | displayOff | cursorOff | blinkOff => exact fitsIn_clearBits _ h
  | _ => exact h

theorem fitsIn_setup_dmode {s : State} (h : FitsIn 2 s.dmode) (i : Instr) : FitsIn 2 (setup i s).dmode := by
  cases i with
  | leftToRight | autoscrollOn => exact fitsIn_setBits h (by decide)
  | rightToLeft | autoscrollOff => exact fitsIn_clearBits _ h
  | _ => exact h

theorem dctl_ne_none_of_no_fault {s : State} (h : dctlFault s = none) : s.dctl ≠ none := by
  intro hn
  simp [dctlFault, hn] at h

theorem dmode_ne_none_of_no_fault {s : State} (h : dmodeFault s = none) : s.dmode ≠ none := by
  intro hn
  simp [dmodeFault, hn] at h

/-- A toggle that raises no fault of its own finds its shadow written (R142), so no setup is a shadow's first write. -/
theorem setup_dctl_ne_none_iff {i : Instr} {s : State} (ho : ownFault i s = none) :
    (setup i s).dctl ≠ none ↔ s.dctl ≠ none := by
  cases i with
  | displayOn | displayOff | cursorOn | cursorOff | blinkOn | blinkOff =>
    exact iff_of_true nofun (dctl_ne_none_of_no_fault ho)
  | _ => rfl

theorem setup_dmode_ne_none_iff {i : Instr} {s : State} (ho : ownFault i s = none) :
    (setup i s).dmode ≠ none ↔ s.dmode ≠ none := by
  cases i with
  | leftToRight | rightToLeft | autoscrollOn | autoscrollOff => exact iff_of_true nofun (dmode_ne_none_of_no_fault ho)
  | _ => rfl

/-- After an INIT a shadow is written iff it was before, or the INIT got as far as its write (R109). -/
theorem ran_init_shadow_ne_none_iff (r : ShadowReg) (s : State) :
    (ran .init s).shadow r ≠ none ↔ nextOk s (txBeforeShadow r) ∨ s.shadow r ≠ none := by
  obtain ⟨hwritten, hkept⟩ := ran_init_shadow r s
  by_cases hn : nextOk s (txBeforeShadow r)
  · simp [hwritten hn, hn]
  · simp [hkept hn, hn]

/-- What holds of the value INIT writes and of what a shadow held holds after the INIT. -/
theorem ran_init_shadow_induction {P : Option Byte → Prop} {r : ShadowReg} {s : State} (hw : P (some (initShadow s.cfg r)))
    (hs : P (s.shadow r)) : P ((ran .init s).shadow r) := by
  obtain ⟨hwritten, hkept⟩ := ran_init_shadow r s
  by_cases hn : nextOk s (txBeforeShadow r)
  · rwa [hwritten hn]
  · rwa [hkept hn]

/-! ## The invariant -/

theorem raise_inv {s : State} (h : s.Inv) (f : FaultCode) : (raise f s).Inv := { h with
  responses := legalResponse_append h.responses (faultedWord_codeOf f).1
  fault := fun g hg => by rw [← Option.some.inj hg]; exact List.getLast?_concat }

/-- An INIT keeps the invariant however far it got: it writes the shadows in their order, and is `Ready` only at its end. -/
theorem ran_init_inv {s : State} (h : s.Inv) (hf : s.fault = none) : (ran .init s).Inv where
  masks := by rw [ran_masks]; exact h.masks
  dfun := ran_init_shadow_induction (r := .dfun)
    (P := fun v => v = none ∨ v = some 0x00#8 ∨ v = some 0x04#8 ∨ v = some 0x08#8)
    (.inr (by simpa [initShadow] using funBits_values s.cfg)) h.dfun
  dctl := fun c hc => Nat.le_of_lt_succ (ran_init_shadow_induction (r := .dctl) (P := FitsIn 3)
    (fitsIn_some (v := displayOnBit) (by decide)) (fun c hc => Nat.lt_succ_of_le (h.dctl c hc)) c hc)
  dmode := fun c hc => Nat.le_of_lt_succ (ran_init_shadow_induction (r := .dmode) (P := FitsIn 2)
    (fitsIn_some (v := entryLeft) (by decide)) (fun c hc => Nat.lt_succ_of_le (h.dmode c hc)) c hc)
  shadowOrder := by
    have hdfun := ran_init_shadow_ne_none_iff .dfun s
    have hdctl := ran_init_shadow_ne_none_iff .dctl s
    have hdmode := ran_init_shadow_ne_none_iff .dmode s
    exact ⟨fun hm => hdctl.mpr ((hdmode.mp hm).imp (nextOk_mono · (by decide)) h.shadowOrder.1),
      fun hc => hdfun.mpr ((hdctl.mp hc).imp (nextOk_mono · (by decide)) h.shadowOrder.2)⟩
  initState := by
    rw [ran_init_initState]
    split
    · exact .inr rfl
    · exact .inl rfl
  ready := fun hr => by
    rw [ran_init_ready_iff, busExpansion_init] at hr
    exact (ran_init_shadow_ne_none_iff .dmode s).mpr (.inl (nextOk_mono (nextOk_of_initOuts hr) (by decide)))
  uncalled := fun hc => by rw [ran_initCalled, setup_init] at hc; cases hc
  txn := ran_txn_eq_txCount h .init
  events := ran_events_legal h .init
  responses := ran_responses_legal h .init
  fault := fun f hs => by rw [ran_fault, hf] at hs; cases hs

/-- Another instruction that runs keeps the invariant: of the registers it leaves only what its setup wrote. -/
theorem ran_inv {i : Instr} {s : State} (h : s.Inv) (hi : i ≠ .init) (ha : Accepts s) (ho : ownFault i s = none) :
    (ran i s).Inv := by
  obtain ⟨hdfun, hdctl, hdmode, hstate⟩ := ran_registers hi s
  obtain ⟨hcalled, hstate'⟩ := setup_sameInit hi s
  rw [setup_dfun hi] at hdfun
  rw [hstate'] at hstate
  exact {
    masks := by rw [ran_masks]; exact h.masks
    dfun := by rw [hdfun]; exact h.dfun
    dctl := fun c hc => Nat.le_of_lt_succ
      (fitsIn_setup_dctl (fun c hc => Nat.lt_succ_of_le (h.dctl c hc)) i c (hdctl.symm.trans hc))
    dmode := fun m hm => Nat.le_of_lt_succ
      (fitsIn_setup_dmode (fun m hm => Nat.lt_succ_of_le (h.dmode m hm)) i m (hdmode.symm.trans hm))
    shadowOrder := by
      rw [hdfun, hdctl, hdmode, setup_dctl_ne_none_iff ho, setup_dmode_ne_none_iff ho]
      exact h.shadowOrder
    initState := by rw [hstate]; exact h.initState
    ready := by rw [hstate, hdmode, setup_dmode_ne_none_iff ho]; exact h.ready
    uncalled := fun hc => by rw [ran_initCalled, hcalled, ha.2] at hc; cases hc
    txn := ran_txn_eq_txCount h i
    events := ran_events_legal h i
    responses := ran_responses_legal h i
    fault := fun f hf => by rw [ran_fault, ha.1] at hf; cases hf }

theorem exec_inv {i : Instr} {s t : State} (h : s.Inv) (ht : exec i s = .next t) : t.Inv := by
  obtain ⟨hf, ⟨-, -, rfl⟩ | ⟨f, -, -, rfl⟩ | ⟨hr, ho, rfl⟩⟩ := exec_cases ht
  · exact raise_inv h _
  · exact raise_inv h f
  · by_cases hi : i = .init
    · subst hi
      exact ran_init_inv h hf
    · exact ran_inv h hi (hr.resolve_left hi) ho

/-- Settles O43: a step takes a fault, runs an INIT, or runs another instruction, and each keeps the invariant. -/
theorem stepKeepsTheInvariant : Obligations.StepKeepsTheInvariant := by
  intro s t h ht
  obtain ⟨-, ⟨why, -, rfl⟩ | ⟨i, -, hi⟩⟩ := step_cases ht
  · exact raise_inv h _
  · exact exec_inv h hi

/-! ## The backlight history (R94, R135) -/

/-- The setup of an instruction leaves in the flag what it asked for, and the flag as it was if it is no backlight request. -/
theorem setup_bl (i : Instr) (s : State) : (setup i s).bl = lastBacklight s.bl [i] := by
  cases i <;> rfl

theorem lastBacklight_append (b : Bool) (is js : List Instr) :
    lastBacklight b (is ++ js) = lastBacklight (lastBacklight b is) js := by
  induction is generalizing b with
  | nil => rfl
  | cons i is ih => cases i <;> exact ih _

theorem execAll_cons {i : Instr} {is : List Instr} {s u : State} (h : execAll (i :: is) s = some u) :
    ∃ t, exec i s = .next t ∧ execAll is t = some u := by
  unfold execAll at h
  split at h
  · next t ht => exact ⟨t, ht, h⟩
  · cases h

/-- No instruction follows a fault, so a run that ends without one has taken none. -/
theorem execAll_fault_none {is : List Instr} {s u : State} (h : execAll is s = some u) (hu : u.fault = none) :
    s.fault = none := by
  cases is with
  | nil => obtain rfl := Option.some.inj h; exact hu
  | cons i is => obtain ⟨t, ht, -⟩ := execAll_cons h; exact (exec_cases ht).1

/-- The history invariant: after a list of instructions without a fault, the flag is what the last backlight request asked for. -/
theorem execAll_bl {is : List Instr} : ∀ {s u : State}, execAll is s = some u → u.fault = none →
    u.bl = lastBacklight s.bl is ∧ u.masks = s.masks := by
  induction is with
  | nil => intro s u h _; obtain rfl := Option.some.inj h; exact ⟨rfl, rfl⟩
  | cons i is ih =>
    intro s u h hu
    obtain ⟨t, ht, hrest⟩ := execAll_cons h
    obtain rfl := exec_ran ht (execAll_fault_none hrest hu)
    obtain ⟨hbl, hmasks⟩ := ih hrest hu
    refine ⟨?_, hmasks.trans (ran_masks i s)⟩
    rw [hbl, ran_bl, setup_bl, ← lastBacklight_append]
    rfl

/-- Settles O44: the history invariant gives the flag before the last instruction, whose setup comes before any byte, and a byte
shows under the backlight mask the packed flag alone. -/
theorem backlightBitIsNeverStale : Obligations.BacklightBitIsNeverStale := by
  intro is i s u t hp _ hrun hu ht htf
  obtain ⟨hbl, hmasks⟩ := execAll_bl hrun hu
  have hapart : u.masks.Apart := by rw [hmasks]; exact Masks.apart_of_legal hp
  obtain rfl := exec_ran ht htf
  refine ⟨_, ran_trace i u, fun b hb => ?_⟩
  rw [← hmasks, busExpansion_byte_and (spares_bl hapart) (mem_txBytes_emission hb), setup_bl, hbl, ← lastBacklight_append]
  exact backlightBit_and_bl hapart _

/-- Settles O45: the request answers the flag, which the history invariant gives. -/
theorem getBacklightAnswersTheLastRequest : Obligations.GetBacklightAnswersTheLastRequest := by
  intro is s u _ hrun ha
  refine ⟨_, execGetBacklight_accepts ha, ?_⟩
  rw [complete_responses, completedWord_boolVal, (execAll_bl hrun ha.1).1]

end Sys2Proof.Machine
end

section
/-! SUPPORT. One transaction (R85), what the transactions make of the expander latch and the strobes (R44, R64), and that nothing
else depends on these two, nor on the column count (R8, R40). -/

namespace Sys2Proof.Machine

/-! ## One transaction -/

/-- Settles O13: the fields of `i2cWrite`, with the byte that `expanderWrite` packs. -/
theorem expanderWriteIsOneTransaction : Obligations.ExpanderWriteIsOneTransaction :=
  fun _ _ => ⟨rfl, ⟨_, _, rfl⟩, fun _ _ => ⟨rfl, rfl⟩⟩

theorem latchAfter_of_ok {o : TxOutcome} (h : txOk o = true) (b latch : Byte) : latchAfter o b latch = b := by
  simp [latchAfter, txLands, h]

theorem latchAfter_of_fail {o : TxOutcome} (h : txOk o = false) (b latch : Byte) :
    latchAfter o b latch = if o.landed then b else latch := by
  simp [latchAfter, txLands, h]

/-- A transport that answers every transaction up to number `n` with a failure. -/
def failingOutcomes (n : Nat) (landed : Bool) : List TxOutcome := List.replicate (n + 1) ⟨0, 0#8, landed⟩

theorem omega_failingOutcomes (s : State) (n : Nat) (landed : Bool) :
    State.omega { s with outcomes := failingOutcomes n landed } n = ⟨0, 0#8, landed⟩ := by
  simp [State.omega, failingOutcomes]

/-- Settles O49: the latch follows `latchAfter`; the free choice of a failed transaction is a part of the outcome. -/
theorem latchHoldsTheByteOrAfterFailureEither : Obligations.LatchHoldsTheByteOrAfterFailureEither := by
  refine ⟨fun s a b => ⟨fun h => ?_, fun h => ?_⟩, fun s a b landed => ⟨failingOutcomes s.txn landed, ?_⟩⟩
  · rw [i2cWrite_latch, latchAfter_of_ok h]
  · rw [i2cWrite_latch, latchAfter_of_fail h]
    split
    · exact .inl rfl
    · exact .inr rfl
  · intro s'
    have ho : s'.omega s'.txn = ⟨0, 0#8, landed⟩ := omega_failingOutcomes s s.txn landed
    rw [i2cWrite_ok, i2cWrite_latch, ho]
    exact ⟨rfl, latchAfter_of_fail rfl b s.latch⟩

/-! ## The latch and the strobes of a run (R44, R64) -/

/-- What one transaction makes of the latch and the strobes is what `replay` reads off its event. -/
theorem replay_txEvent (p : Masks) (omega : Nat → TxOutcome) (n : Nat) (l : Byte) (ks : List Strobe) (a : BusAddr) (b : Byte)
    (es : List Event) : replay p omega n (l, ks) (txEvent a b (omega n) :: es) =
      replay p omega (n + 1) (latchAfter (omega n) b l, ks ++ strobeOf p l (latchAfter (omega n) b l)) es := by
  have hstrobe : ∀ l', ks ++ strobeOf p l l' = if l &&& p.en ≠ 0#8 ∧ l' &&& p.en = 0#8 then
      ks ++ [⟨decide (l &&& p.rs ≠ 0#8), l.extractLsb' 4 4⟩] else ks := fun l' => by
    by_cases hfall : l &&& p.en ≠ 0#8 ∧ l' &&& p.en = 0#8
    · rw [strobeOf_pulse hfall.1 hfall.2, if_pos hfall, nibbleStrobe]
    · rw [strobeOf, if_neg hfall, if_neg hfall, List.append_nil]
  rw [hstrobe]
  rfl

/-- A plan leaves the latch and the strobes that its emission gives. -/
theorem runPlan_replay (plan : Plan) : ∀ s : State,
    ((runPlan plan s).2.latch, (runPlan plan s).2.strobes) = replay s.masks s.omega s.txn (s.latch, s.strobes)
      (emission s.cfg.addr s.omega s.txn (outsOf (backlightBit s.masks s.bl) plan)) := by
  induction plan with
  | nil => intro s; rfl
  | cons a as ih =>
    intro s
    cases a with
    | out d =>
      have ho : (runAct (.out d) s).2.omega = s.omega := omega_of_outcomes rfl
      rw [runPlan_cons, outsOf, emission, ← txEvent, replay_txEvent]
      cases hk : txOk (s.omega s.txn) with
      | true =>
        rw [if_pos (show (runAct (.out d) s).1 = true from hk), ih, ho]
        rfl
      | false =>
        rw [if_neg (show ¬(runAct (.out d) s).1 = true from ne_true_of_eq_false hk)]
        rfl
    | busBegin => exact ih (s.emit .busBegin)
    | wait t => exact ih (s.emit (.wait t))
    | enter q => exact ih (s.enter q)
    | setDfun v => exact ih (s.setDfun v)
    | setDctl v => exact ih (s.setDctl v)
    | setDmode v => exact ih (s.setDmode v)

theorem ran_replay (i : Instr) (s : State) : ((ran i s).latch, (ran i s).strobes) =
    replay s.masks s.omega s.txn (s.latch, s.strobes) (emission s.cfg.addr s.omega s.txn (busExpansion i s)) := by
  have h := runPlan_replay (expansion i s) (setup i s)
  simp only [setup_masks, setup_omega, setup_txn, setup_latch, setup_strobes, setup_cfg] at h
  simp only [ran, complete_latch, complete_strobes, finish_latch, finish_strobes]
  exact h

/-- Settles O50: a fault makes no transaction, and a run leaves what its emission gives. -/
theorem latchAndStrobesFollowTheTransactions : Obligations.LatchAndStrobesFollowTheTransactions := by
  intro i s t h
  obtain ⟨f, rfl⟩ | ⟨rfl, -⟩ := exec_raise_or_ran h
  · exact ⟨[], (List.append_nil _).symm, rfl⟩
  · exact ⟨_, ran_trace i s, ran_replay i s⟩

/-! ## What no instruction reads (R8, R40) -/

/-- The state with another column count, latch and strobe history. -/
def State.withUnread (cols l : Byte) (ks : List Strobe) (s : State) : State :=
  { s with cfg := { s.cfg with cols := cols }, latch := l, strobes := ks }

theorem ownFault_withUnread (i : Instr) (n l : Byte) (ks : List Strobe) (s : State) :
    ownFault i (s.withUnread n l ks) = ownFault i s := by
  cases i <;> rfl

theorem setup_withUnread (i : Instr) (n l : Byte) (ks : List Strobe) (s : State) :
    setup i (s.withUnread n l ks) = (setup i s).withUnread n l ks := by
  cases i <;> rfl

theorem expansion_withUnread (i : Instr) (n l : Byte) (ks : List Strobe) (s : State) :
    expansion i (s.withUnread n l ks) = expansion i s := by
  cases i <;> rfl

theorem finish_withUnread (i : Instr) (ok : Bool) (n l : Byte) (ks : List Strobe) (s : State) :
    finish i ok (s.withUnread n l ks) = (finish i ok s).withUnread n l ks := by
  cases i with
  | init => cases ok <;> rfl
  | _ => rfl

/-- `runAct` and `runPlan` give the same result, and the same state but for what is not read. -/
theorem runAct_withUnread (a : Act) (n l : Byte) (ks : List Strobe) (s : State) :
    ∃ l' ks', runAct a (s.withUnread n l ks) = ((runAct a s).1, (runAct a s).2.withUnread n l' ks') := by
  cases a <;> exact ⟨_, _, rfl⟩

theorem runPlan_withUnread (plan : Plan) (n : Byte) : ∀ (l : Byte) (ks : List Strobe) (s : State),
    ∃ l' ks', runPlan plan (s.withUnread n l ks) = ((runPlan plan s).1, (runPlan plan s).2.withUnread n l' ks') := by
  induction plan with
  | nil => exact fun l ks s => ⟨l, ks, rfl⟩
  | cons a as ih =>
    intro l ks s
    obtain ⟨l', ks', h⟩ := runAct_withUnread a n l ks s
    rw [runPlan_cons, runPlan_cons, h]
    cases (runAct a s).1 with
    | true => exact ih l' ks' _
    | false => exact ⟨l', ks', rfl⟩

theorem printLoop_count_withUnread (p : Masks) (n : Byte) (bs : List Byte) :
    ∀ (k : BitVec 16) (l : Byte) (ks : List Strobe) (s : State),
      (printLoop p bs k (s.withUnread n l ks)).1 = (printLoop p bs k s).1 := by
  induction bs with
  | nil => exact fun k l ks s => rfl
  | cons v vs ih =>
    intro k l ks s
    obtain ⟨l', ks', h⟩ := runPlan_withUnread (send p v .data) n l ks s
    rw [printLoop, printLoop, h]
    cases (runPlan (send p v .data) s).1 with
    | true => exact ih _ l' ks' _
    | false => rfl

theorem resultOf_withUnread (i : Instr) (n l : Byte) (ks : List Strobe) (s : State) (ok : Bool) :
    resultOf i (s.withUnread n l ks) ok = resultOf i s ok := by
  cases i with
  | printstr text => exact printLoop_count_withUnread s.masks n text 0#16 l ks s
  | _ => rfl

theorem ran_withUnread (i : Instr) (n l : Byte) (ks : List Strobe) (s : State) :
    ∃ l' ks', ran i (s.withUnread n l ks) = (ran i s).withUnread n l' ks' := by
  obtain ⟨l', ks', h⟩ := runPlan_withUnread (expansion i s) n l ks (setup i s)
  refine ⟨l', ks', ?_⟩
  rw [ran, ran, setup_withUnread, expansion_withUnread, h, resultOf_withUnread, finish_withUnread]
  rfl

/-- An instruction does the same whatever the column count, the latch and the strobes were, but for these themselves. -/
theorem exec_withUnread {i : Instr} {s t : State} (n l : Byte) (ks : List Strobe) (h : exec i s = .next t) :
    ∃ l' ks', exec i (s.withUnread n l ks) = .next (t.withUnread n l' ks') := by
  obtain ⟨hf, ⟨hi, hc, rfl⟩ | ⟨f, ha, ho, rfl⟩ | ⟨hr, ho, rfl⟩⟩ := exec_cases h
  · exact ⟨l, ks, exec_of_uncalled (s := s.withUnread n l ks) hf hc hi⟩
  · exact ⟨l, ks, exec_of_ownFault (s := s.withUnread n l ks) ha ((ownFault_withUnread i n l ks s).trans ho)⟩
  · obtain ⟨l', ks', hran⟩ := ran_withUnread i n l ks s
    exact ⟨l', ks', by
      rw [← hran]; exact exec_of_runs (s := s.withUnread n l ks) hf hr ((ownFault_withUnread i n l ks s).trans ho)⟩

/-- Settles O48: with the column count as it was, only the latch and the strobes can differ. -/
theorem latchIsNeverRead : Obligations.LatchIsNeverRead := by
  intro i s t l ks h
  obtain ⟨l', ks', hu⟩ := exec_withUnread s.cfg.cols l ks h
  refine ⟨_, hu, ?_⟩
  rw [← (exec_sameParameters h).1]
  rfl

/-- Settles O47: the latch and the strobes do not differ either, for they follow from the transactions. -/
theorem columnCountIsNeverRead : Obligations.ColumnCountIsNeverRead := by
  intro i s t n h
  obtain ⟨l', ks', hu⟩ := exec_withUnread n s.latch s.strobes h
  obtain ⟨new, htrace, hreplay⟩ := latchAndStrobesFollowTheTransactions i s t h
  obtain ⟨new', htrace', hreplay'⟩ := latchAndStrobesFollowTheTransactions i _ _ hu
  obtain rfl : new = new' := List.append_cancel_left (htrace.symm.trans htrace')
  obtain ⟨rfl, rfl⟩ := Prod.mk.inj (hreplay'.trans hreplay.symm)
  exact hu

end Sys2Proof.Machine
end

section
/-! SUPPORT. What reaches the controller (R64, R65): the nibble latch step from Enable low and from Enable left high, and from it
`send`, INIT, a byte cut in half (R162) and a stuck Enable (R163). -/

namespace Sys2Proof.Machine

/-! ## The nibble latch step -/

theorem enableLow_iff {s t : State} (h : t.masks = s.masks) : enableLow t ↔ t.latch &&& s.masks.en = 0#8 := by
  rw [enableLow, h]

/-- The last byte of a nibble latch step, whatever its outcome: the wait after it touches neither latch nor strobes. -/
theorem runPlan_out_wait (d : Byte) (t : Nat) (s : State) :
    (runPlan [.out d, .wait t] s).2.latch = (expanderWrite d s).2.latch ∧
      (runPlan [.out d, .wait t] s).2.strobes = (expanderWrite d s).2.strobes := by
  rw [runPlan_cons]
  split <;> exact ⟨rfl, rfl⟩

/-- A nibble byte with the backlight bit has Enable low when its argument has. -/
theorem or_backlightBit_and_en {s : State} (hp : s.masks.Apart) {n : Byte} (hn : n &&& s.masks.en = 0#8) :
    (n ||| backlightBit s.masks s.bl) &&& s.masks.en = 0#8 :=
  or_and_zero hn (backlightBit_apart hp).1

/-- A nibble latch step whose first two transactions are ok: its set-up byte strobes what Enable left high says, and its nibble is
strobed iff the Enable-low byte reaches the pins. -/
theorem write4bits_strobes {s : State} (hp : s.masks.Apart) {n : Byte} (hn : n &&& s.masks.en = 0#8) (hk : nextOk s 2) :
    (txLands (s.omega (s.txn + 2)) = true →
      (runPlan (write4bits s.masks n) s).2.strobes =
        s.strobes ++ strobeOf s.masks s.latch (n ||| backlightBit s.masks s.bl) ++ [nibbleStrobe s.masks n] ∧
      enableLow (runPlan (write4bits s.masks n) s).2) ∧
    (txLands (s.omega (s.txn + 2)) = false →
      (runPlan (write4bits s.masks n) s).2.strobes =
        s.strobes ++ strobeOf s.masks s.latch (n ||| backlightBit s.masks s.bl) ∧
      ¬enableLow (runPlan (write4bits s.masks n) s).2) := by
  rw [enableLow_iff (runPlan_masks _ s)]
  obtain ⟨u, hmasks, hbl, homega, htxn, hhigh, hnibble, hstrobes, hrest⟩ := write4bits_pulsed hp n hn hk
  obtain ⟨hlatch', hstrobes'⟩ := runPlan_out_wait n tExec u
  rw [hrest, hlatch', hstrobes', expanderWrite, i2cWrite_latch, i2cWrite_strobes, hmasks, hbl, homega, htxn, hstrobes,
    latchAfter]
  refine ⟨fun hlands => ?_, fun hlost => ?_⟩
  · have hlow := or_backlightBit_and_en hp hn
    rw [if_pos hlands, strobeOf_pulse hhigh hlow, hnibble]
    exact ⟨rfl, hlow⟩
  · rw [if_neg (by simp [hlost]), strobeOf_high hhigh, List.append_nil]
    exact ⟨rfl, hhigh⟩

theorem nextOk_two {s : State} (h : nextOk s 3) : nextOk s 2 ∧ txLands (s.omega (s.txn + 2)) = true :=
  ⟨nextOk_mono h (by decide), by rw [txLands, h 2 (by decide), Bool.true_or]⟩

/-- Settles O58: from Enable low the set-up byte strobes nothing; whether the third byte reaches the pins decides the rest. -/
theorem nibbleStepStrobesItsNibble : Obligations.NibbleStepStrobesItsNibble := by
  intro s n hp hn hlow t
  have key := fun hk => write4bits_strobes (Masks.apart_of_legal hp) hn (s := s) hk
  rw [strobeOf_low hlow, List.append_nil] at key
  refine ⟨fun h => ?_, fun hk hfail => ⟨fun hlanded => ?_, fun hlost => ?_⟩⟩
  · obtain ⟨hk, hlands⟩ := nextOk_two h
    exact (key hk).1 hlands
  · exact (key hk).1 (by rw [txLands, hfail, hlanded]; rfl)
  · exact (key hk).2 (by rw [txLands, hfail, hlost]; rfl)

/-! ## A stuck Enable (R163) -/

/-- The next ok byte with Enable low after one that left Enable high strobes the old nibble once more. -/
theorem expanderWrite_strobes_of_stuck {s : State} (hp : s.masks.Apart) (hhigh : ¬enableLow s) {n : Byte}
    (hn : n &&& s.masks.en = 0#8) (hk : nextOk s 1) :
    (expanderWrite n s).2.strobes = s.strobes ++ [nibbleStrobe s.masks s.latch] ∧ enableLow (expanderWrite n s).2 := by
  obtain ⟨-, hlatch, hstrobes, -, -, hmasks, -⟩ := expanderWrite_of_ok n (hk 0 (by decide))
  have hlow := or_backlightBit_and_en hp hn
  rw [enableLow_iff hmasks, hlatch, hstrobes, strobeOf_pulse hhigh hlow]
  exact ⟨rfl, hlow⟩

theorem runPlan_out (d : Byte) (s : State) : runPlan [.out d] s = expanderWrite d s := by
  rw [runPlan_cons]
  split
  · next hok => exact Prod.ext hok.symm rfl
  · next hfail => exact Prod.ext (Bool.eq_false_of_not_eq_true hfail).symm rfl

/-- Settles O54: the one byte, the set-up byte of the nibble latch step before its own strobe, and the byte of a backlight
request, sent from the state that holds the new flag. -/
theorem stuckEnableStrobesTheOldNibbleAgain : Obligations.StuckEnableStrobesTheOldNibbleAgain := by
  intro s hp hhigh
  have hapart := Masks.apart_of_legal hp
  refine ⟨fun n hn hk => expanderWrite_strobes_of_stuck hapart hhigh hn hk, fun n hn h => ?_, fun b ha hk => ?_⟩
  · obtain ⟨hk, hlands⟩ := nextOk_two h
    have hstep := (write4bits_strobes hapart hn hk).1 hlands
    rwa [strobeOf_pulse hhigh (or_backlightBit_and_en hapart hn), List.append_assoc] at hstep
  · refine ⟨_, exec_backlight_accepts ha b, ?_⟩
    have hwrite := expanderWrite_strobes_of_stuck (s := s.setBl b) (n := 0x00#8) hapart hhigh BitVec.zero_and hk
    rw [← runPlan_out] at hwrite
    exact hwrite

/-! ## Plans from Enable low -/

/-- Run in full from Enable low, the plan strobes `ks` and leaves Enable low. -/
def StrobesFromLow (p : Masks) (plan : Plan) (ks : List Strobe) : Prop :=
  ∀ s : State, s.masks = p → enableLow s → (runPlan plan s).1 = true →
    (runPlan plan s).2.strobes = s.strobes ++ ks ∧ enableLow (runPlan plan s).2

theorem StrobesFromLow.append {p : Masks} {as bs : Plan} {ks ls : List Strobe} (ha : StrobesFromLow p as ks)
    (hb : StrobesFromLow p bs ls) : StrobesFromLow p (as ++ bs) (ks ++ ls) := by
  intro s hp hlow
  rw [runPlan_append]
  split
  · next hok =>
    intro hok'
    obtain ⟨hks, hlow'⟩ := ha s hp hlow hok
    obtain ⟨hls, hlow''⟩ := hb _ ((runPlan_masks as s).trans hp) hlow' hok'
    exact ⟨by rw [hls, hks, List.append_assoc], hlow''⟩
  · next hfail => exact fun hok => absurd hok hfail

/-- An item without a transaction strobes nothing. -/
theorem strobesFromLow_silent {p : Masks} {a : Act} (h : a.txs = 0) : StrobesFromLow p [a] [] := by
  intro s _ hlow _
  cases a with
  | out d => cases h
  | _ => exact ⟨(List.append_nil _).symm, hlow⟩

theorem StrobesFromLow.cons {p : Masks} {as : Plan} {ks : List Strobe} (a : Act) (h : StrobesFromLow p as ks)
    (ha : a.txs = 0 := by rfl) : StrobesFromLow p (a :: as) ks :=
  (strobesFromLow_silent ha).append h

theorem StrobesFromLow.wait {p : Masks} {as : Plan} {ks : List Strobe} (h : StrobesFromLow p as ks) (t : Nat) :
    StrobesFromLow p (as ++ [.wait t]) ks := by
  have hwait := h.append (strobesFromLow_silent (a := .wait t) rfl)
  rwa [List.append_nil] at hwait

theorem strobesFromLow_out {p : Masks} (hp : p.Apart) {d : Byte} (hd : d &&& p.en = 0#8) : StrobesFromLow p [.out d] [] := by
  rintro s rfl hlow hok
  rw [runPlan_out] at hok ⊢
  obtain ⟨-, hlatch, hstrobes, -, -, hmasks, -⟩ := expanderWrite_of_ok d hok
  rw [enableLow_iff hmasks, hlatch, hstrobes, strobeOf_low hlow]
  exact ⟨rfl, or_backlightBit_and_en hp hd⟩

theorem strobesFromLow_write4bits {p : Masks} (hp : p.Apart) {n : Byte} (hn : n &&& p.en = 0#8) :
    StrobesFromLow p (write4bits p n) [nibbleStrobe p n] := by
  rintro s rfl hlow hok
  obtain ⟨hk, hlands⟩ := nextOk_two ((runPlan_ok_iff _ s).mp hok)
  have hstep := (write4bits_strobes hp hn hk).1 hlands
  rwa [strobeOf_low hlow, List.append_nil] at hstep

/-! ## A byte -/

theorem data_and_en {p : Masks} (hp : p.Apart) (d : Byte) (m : Mode) : (d &&& 0xF0#8 ||| modeBit p m) &&& p.en = 0#8 := by
  refine or_and_zero (and_and_zero_left hp.data_en) ?_
  cases m with
  | cmd => exact BitVec.zero_and
  | data => exact hp.rs_en

theorem data_and_rs {p : Masks} (hp : p.Apart) (d : Byte) (m : Mode) :
    (d &&& 0xF0#8 ||| modeBit p m) &&& p.rs ≠ 0#8 ↔ m = .data := by
  rw [or_and_of_left (and_and_zero_left hp.data_rs)]
  cases m with
  | cmd => simp [modeBit]
  | data => simp [modeBit, hp.rs_ne]

theorem data_nibble {p : Masks} (hp : p.Apart) (d : Byte) (m : Mode) :
    (d &&& 0xF0#8 ||| modeBit p m).extractLsb' 4 4 = (d &&& 0xF0#8).extractLsb' 4 4 := by
  cases m with
  | cmd => rw [modeBit, BitVec.or_zero]
  | data => exact nibble_or hp.rs_data

/-- A nibble argument strobes its data nibble with the Register Select of its mode. -/
theorem nibbleStrobe_data {p : Masks} (hp : p.Apart) (d : Byte) (m : Mode) :
    nibbleStrobe p (d &&& 0xF0#8 ||| modeBit p m) = ⟨m == .data, (d &&& 0xF0#8).extractLsb' 4 4⟩ := by
  simp only [nibbleStrobe, data_and_rs hp, data_nibble hp]
  cases m <;> rfl

theorem strobesFromLow_send {p : Masks} (hp : p.Apart) (v : Byte) (m : Mode) :
    StrobesFromLow p (send p v m) [⟨m == .data, v.extractLsb' 4 4⟩, ⟨m == .data, v.extractLsb' 0 4⟩] := by
  have hhigh := strobesFromLow_write4bits hp (data_and_en hp v m)
  have hlow := strobesFromLow_write4bits hp (data_and_en hp (v <<< 4) m)
  rw [nibbleStrobe_data hp, nibble_high] at hhigh
  rw [nibbleStrobe_data hp, nibble_low] at hlow
  exact hhigh.append hlow

/-- Settles O51: the two nibble latch steps of a byte. -/
theorem sendStrobesItsTwoNibbles : Obligations.SendStrobesItsTwoNibbles :=
  fun s v m hp hlow hk => strobesFromLow_send (Masks.apart_of_legal hp) v m s rfl hlow ((runPlan_ok_iff _ s).mpr hk)

/-- A `send` whose first nibble goes out whole and whose fourth transaction fails (R162). -/
theorem runPlan_send_half {s : State} {v : Byte} {m : Mode} (hk : nextOk s 3) (hfail : txOk (s.omega (s.txn + 3)) = false) :
    ∃ u, u = (runPlan (write4bits s.masks (highNibble s.masks v m)) s).2 ∧ u.txn = s.txn + 3 ∧
      txOk (u.omega u.txn) = false ∧
      runPlan (send s.masks v m) s = (false, (expanderWrite (lowNibble s.masks v m) u).2) := by
  have hok : (runPlan (write4bits s.masks (highNibble s.masks v m)) s).1 = true := (runPlan_ok_iff _ s).mpr hk
  have htxn : (runPlan (write4bits s.masks (highNibble s.masks v m)) s).2.txn = s.txn + 3 := runPlan_txn_of_ok _ s hok
  have hfail' : txOk ((runPlan (write4bits s.masks (highNibble s.masks v m)) s).2.omega
      (runPlan (write4bits s.masks (highNibble s.masks v m)) s).2.txn) = false := by
    rw [runPlan_omega, htxn, hfail]
  refine ⟨_, rfl, htxn, hfail', ?_⟩
  rw [send, runPlan_append, if_pos hok, write4bits.eq_def _ (lowNibble _ _ _), runPlan_cons, if_neg]
  · rfl
  · exact ne_true_of_eq_false hfail'

/-- Settles O53: the high nibble is strobed, and the failed set-up byte of the low one strobes nothing. -/
theorem lowNibbleFailureLeavesAHalfSentByte : Obligations.LowNibbleFailureLeavesAHalfSentByte := by
  intro s v ha hp hlow hk hfail
  have hapart := Masks.apart_of_legal hp
  obtain ⟨u, hu, htxn, hfail', hrun⟩ := runPlan_send_half (v := v) (m := .cmd) hk hfail
  obtain ⟨hstrobes, hlow'⟩ := strobesFromLow_write4bits hapart (data_and_en hapart v .cmd) s rfl hlow
    ((runPlan_ok_iff _ s).mpr hk)
  rw [nibbleStrobe_data hapart, nibble_high] at hstrobes
  obtain ⟨-, hstrobes', htxn', hsync⟩ := expanderWrite_of_fail (lowNibble s.masks v .cmd) hfail'
  refine ⟨_, (exec_command v s).trans (planRequest_accepts ha _ _), ?_⟩
  simp only [boolRequest, hrun, complete_strobes, complete_responses, complete_syncLost, complete_txn]
  refine ⟨?_, ?_, hsync, by rw [htxn', htxn]⟩
  · rw [hstrobes', strobeOf_low (by rw [hu]; exact hlow'), List.append_nil, hu]
    exact hstrobes
  · rw [hu]
    exact congrArg (· ++ [0x00000000#32]) (runPlan_responses _ s)

/-! ## INIT -/

/-- The nibbles of the function-set command (R103): `0x2`, and the function-set bits. -/
theorem cmdFunctionSet_nibbles (cfg : Cfg) : (cmdFunctionSet (funBits cfg)).extractLsb' 4 4 = 2#4 ∧
    (cmdFunctionSet (funBits cfg)).extractLsb' 0 4 = (funBits cfg).extractLsb' 0 4 := by
  obtain h | h | h := funBits_values cfg <;> rw [h] <;> decide

/-- The strobes of a successful INIT: four single nibbles, then five pairs. -/
def initStrobes (cfg : Cfg) : List Strobe :=
  [⟨false, 3#4⟩, ⟨false, 3#4⟩, ⟨false, 3#4⟩, ⟨false, 2#4⟩] ++
    [⟨false, 2#4⟩, ⟨false, (funBits cfg).extractLsb' 0 4⟩, ⟨false, 0#4⟩, ⟨false, 0xC#4⟩, ⟨false, 0#4⟩, ⟨false, 1#4⟩,
      ⟨false, 0#4⟩, ⟨false, 6#4⟩, ⟨false, 0#4⟩, ⟨false, 2#4⟩]

/-- A nibble of the handshake, behind the entry of its sequencer state (R101, R102). -/
theorem strobesFromLow_handshake {p : Masks} (hp : p.Apart) (q : InitState) {n : Byte} (hn : n &&& 0xF0#8 = n) :
    StrobesFromLow p (.enter q :: write4bits p n) [⟨false, n.extractLsb' 4 4⟩] := by
  have hen : n &&& p.en = 0#8 := by rw [← hn]; exact and_and_zero_left hp.data_en
  have hrs : n &&& p.rs = 0#8 := by rw [← hn]; exact and_and_zero_left hp.data_rs
  have hstep := (strobesFromLow_write4bits hp hen).cons (.enter q)
  rwa [nibbleStrobe, hrs] at hstep

/-- INIT's plan, step by step: the handshake, then each command byte behind its silent items. -/
theorem strobesFromLow_initPlan {p : Masks} (hp : p.Apart) (cfg : Cfg) : StrobesFromLow p (initPlan p cfg) (initStrobes cfg) := by
  have cmd (v : Byte) := strobesFromLow_send hp v .cmd
  have hfun := cmd (cmdFunctionSet (funBits cfg))
  rw [(cmdFunctionSet_nibbles cfg).1, (cmdFunctionSet_nibbles cfg).2] at hfun
  have hreset : StrobesFromLow p [.busBegin, .wait tPowerUp, .enter .forceBusReset, .out 0x00#8, .wait tExpReset] [] :=
    ((strobesFromLow_out hp BitVec.zero_and).wait tExpReset).cons (.enter .forceBusReset) |>.cons (.wait tPowerUp)
      |>.cons .busBegin
  exact hreset
    |>.append (strobesFromLow_handshake hp .forceDdram8to4First (n := nibble8Bit) rfl) |>.wait tInit1
    |>.append (strobesFromLow_handshake hp .forceDdram8to4Second (n := nibble8Bit) rfl) |>.wait tInit2
    |>.append (strobesFromLow_handshake hp .forceDdram8to4Third (n := nibble8Bit) rfl) |>.wait tInit3
    |>.append (strobesFromLow_handshake hp .setInterfaceWidth (n := nibble4Bit) rfl)
    |>.append (hfun.cons (.setDfun (funBits cfg)) |>.cons (.enter .functionSet))
    |>.append ((cmd (cmdDisplayControl displayOnBit)).cons (.setDctl displayOnBit) |>.cons (.enter .displayOn))
    |>.append ((cmd cmdClear).cons (.enter .cleared)) |>.wait tClearHome
    |>.append ((cmd (cmdEntryMode entryLeft)).cons (.setDmode entryLeft) |>.cons (.enter .entryModeSet))
    |>.append ((cmd cmdHome).cons (.enter .homed)) |>.wait tClearHome

/-- Settles O52: INIT's plan from Enable low, and the pairs read as bytes. -/
theorem initStrobesTheHandshakeFirst : Obligations.InitStrobesTheHandshakeFirst := by
  intro s hf hp hlow hk pairs
  refine ⟨⟨ran .init s, exec_init hf, ?_⟩, ?_⟩
  · have hok : (runPlan (initPlan s.masks s.cfg) (beginInit s)).1 = true := by
      rw [← expansion_init, ← setup_init, ran_ok, busExpansion_init, emissionOk_iff, byteCount_initOuts]
      exact hk
    obtain ⟨hstrobes, hlow'⟩ := strobesFromLow_initPlan (Masks.apart_of_legal hp) s.cfg (beginInit s) rfl hlow hok
    rw [enableLow_iff (ran_masks .init s)]
    rw [enableLow_iff (runPlan_masks _ _)] at hlow'
    simp only [ran, complete_latch, complete_strobes, finish_latch, finish_strobes, expansion_init, setup_init]
    exact ⟨hlow', hstrobes⟩
  · obtain h | h | h := funBits_values s.cfg <;> simp only [pairs, h] <;> decide

end Sys2Proof.Machine
end

section
/-! SUPPORT. What goes out when every transaction is ok: the bytes of `send` (R75, R90) and of INIT (R111), the transactions and waits
of every instruction (R171), the bytes PRINTSTR counts (R115), and the command-byte rows run as COMMAND (R77, log entry 8). -/

namespace Sys2Proof.Machine

/-! ## Transactions and waits of an ok expansion (R171) -/

/-- The transactions, the waits and the sum of the minimum waits of some events. -/
def cost (es : List Event) : Nat × Nat × Nat := (txCount es, waitCount es, waitSum es)

/-- The same of an expansion. -/
def outsCost : List Out → Nat × Nat × Nat
  | [] => 0
  | .busBegin :: xs => outsCost xs
  | .byte _ :: xs => (1, 0, 0) + outsCost xs
  | .wait t :: xs => (0, 1, t) + outsCost xs

theorem outsCost_append (xs ys : List Out) : outsCost (xs ++ ys) = outsCost xs + outsCost ys := by
  induction xs with
  | nil => exact (zero_add _).symm
  | cons x xs ih =>
    cases x with
    | busBegin => exact ih
    | byte b => rw [List.cons_append, outsCost, outsCost, ih, add_assoc]
    | wait t => rw [List.cons_append, outsCost, outsCost, ih, add_assoc]

/-- An expansion costs as many transactions as it holds bytes. -/
theorem outsCost_fst (xs : List Out) : (outsCost xs).1 = byteCount xs := by
  induction xs with
  | nil => rfl
  | cons x xs ih =>
    cases x with
    | busBegin => exact ih
    | byte b => exact congrArg (1 + ·) ih
    | wait t => exact (Nat.zero_add _).trans ih

/-- What an expansion emits costs what the expansion does, when every transaction is ok. -/
theorem cost_emission (a : BusAddr) (omega : Nat → TxOutcome) (xs : List Out) : ∀ n, emissionOk omega n xs = true →
    cost (emission a omega n xs) = outsCost xs := by
  induction xs with
  | nil => exact fun _ _ => rfl
  | cons x xs ih =>
    intro n h
    cases x with
    | busBegin => exact ih n h
    | wait t => rw [outsCost, ← ih n h]; simp [emission, cost, txCount, waitCount, waitSum]
    | byte b =>
      rw [emissionOk, Bool.and_eq_true] at h
      rw [outsCost, ← ih _ h.2, emission, if_pos h.1]
      simp [cost, txCount, waitCount, waitSum]

theorem outsCost_write4bits (p : Masks) (b n : Byte) : outsCost (outsOf b (write4bits p n)) = (3, 2, 51) := rfl

theorem outsCost_send (p : Masks) (b v : Byte) (m : Mode) : outsCost (outsOf b (send p v m)) = (6, 4, 102) := rfl

theorem outsCost_sendAll (p : Masks) (b : Byte) (vs : List Byte) :
    outsCost (outsOf b (sendAll p vs)) = (6 * vs.length, 4 * vs.length, 102 * vs.length) := by
  induction vs with
  | nil => rfl
  | cons v vs ih =>
    rw [sendAll, outsOf_append, outsCost_append, outsCost_send, ih]
    simp only [Prod.mk_add_mk, List.length_cons, Nat.mul_add, Nat.add_comm]

theorem outsCost_initPlan (p : Masks) (cfg : Cfg) (b : Byte) :
    outsCost (outsOf b (initPlan p cfg)) = (43, 35, 1063864) := by
  simp only [initPlan, outsOf_append, outsCost_append, outsOf, outsCost_write4bits, outsCost_send, outsCost]
  rfl

/-- Each expansion costs what R171 lists. -/
theorem outsCost_busExpansion (i : Instr) (s : State) :
    outsCost (busExpansion i s) = (tableTx i, tableWaits i, tableWaitSum i) := by
  cases i with
  | init => exact outsCost_initPlan ..
  | clear | home => rw [busExpansion, expansion, outsOf_append, outsCost_append, outsCost_send]; rfl
  | createChar slot g =>
    rw [busExpansion, expansion, outsOf_append, outsCost_append, outsCost_send, outsCost_sendAll,
      show g.rows.length = 8 from rfl, Prod.mk_add_mk, Prod.mk_add_mk]
    rfl
  | printstr text => exact outsCost_sendAll ..
  | backlightOn | backlightOff | getBacklight => rfl
  | _ => exact outsCost_send ..

/-- With its transactions all ok an instruction's expansion is ok and costs what the table lists. -/
theorem busExpansion_of_nextOk {i : Instr} {s : State} (hk : nextOk s (tableTx i)) :
    emissionOk s.omega s.txn (busExpansion i s) = true ∧
      txCount (emission s.cfg.addr s.omega s.txn (busExpansion i s)) = tableTx i ∧
      waitCount (emission s.cfg.addr s.omega s.txn (busExpansion i s)) = tableWaits i ∧
      waitSum (emission s.cfg.addr s.omega s.txn (busExpansion i s)) = tableWaitSum i := by
  have htable := outsCost_busExpansion i s
  have hok : emissionOk s.omega s.txn (busExpansion i s) = true := by
    rw [emissionOk_iff, ← outsCost_fst, htable]
    exact hk
  have hcost := (cost_emission s.cfg.addr s.omega _ _ hok).trans htable
  rw [cost, Prod.mk.injEq, Prod.mk.injEq] at hcost
  exact ⟨hok, hcost⟩

/-- Settles O55: a completed instruction has run, and what it emits is its expansion. -/
theorem successfulRequestsTakeTheListedTime : Obligations.SuccessfulRequestsTakeTheListedTime := by
  intro i s t h hf hk
  obtain rfl := exec_ran h hf
  exact ⟨_, ran_trace i s, (busExpansion_of_nextOk hk).2⟩

/-! ## The bytes of `send` -/

/-- The three bytes of a nibble argument whose Enable bit is 0. -/
def nibbleBytes (p : Masks) (b n : Byte) : List Byte := [n ||| b, n ||| p.en ||| b, n ||| b]

theorem txBytes_send {s : State} (v : Byte) (m : Mode) (hp : s.masks.Apart) (hk : nextOk s 6) :
    txBytes (emission s.cfg.addr s.omega s.txn (outsOf (blBit s) (send s.masks v m))) =
      nibbleBytes s.masks (blBit s) (highNibble s.masks v m) ++ nibbleBytes s.masks (blBit s) (lowNibble s.masks v m) := by
  have hok : emissionOk s.omega s.txn (outsOf (blBit s) (send s.masks v m)) = true := (emissionOk_iff ..).mpr hk
  have hhigh : highNibble s.masks v m &&& s.masks.en = 0#8 := data_and_en hp v m
  have hlow : lowNibble s.masks v m &&& s.masks.en = 0#8 := data_and_en hp (v <<< 4) m
  calc txBytes (emission s.cfg.addr s.omega s.txn (outsOf (blBit s) (send s.masks v m)))
      = [highNibble s.masks v m ||| blBit s, highNibble s.masks v m ||| s.masks.en ||| blBit s,
          highNibble s.masks v m &&& ~~~s.masks.en ||| blBit s, lowNibble s.masks v m ||| blBit s,
          lowNibble s.masks v m ||| s.masks.en ||| blBit s, lowNibble s.masks v m &&& ~~~s.masks.en ||| blBit s] :=
        (emission_of_ok _ _ _ _ hok).2.1
    _ = _ := by rw [and_not_of_and_zero hhigh, and_not_of_and_zero hlow]; rfl

/-- The bits of a nibble's bytes that the step itself drives: the data nibble and Register Select, unchanged over the step. -/
theorem nibbleBytes_bits {p : Masks} (hp : p.Apart) {b n x : Byte} (hrs : b &&& p.rs = 0#8) (hdata : b &&& 0xF0#8 = 0#8)
    (hx : x ∈ nibbleBytes p b n) : x &&& p.rs = n &&& p.rs ∧ x.extractLsb' 4 4 = n.extractLsb' 4 4 := by
  have hset : (n ||| b) &&& p.rs = n &&& p.rs ∧ (n ||| b).extractLsb' 4 4 = n.extractLsb' 4 4 :=
    ⟨or_and_of_right hrs, nibble_or hdata⟩
  rw [nibbleBytes, List.mem_cons, List.mem_cons, List.mem_singleton] at hx
  obtain rfl | rfl | rfl := hx
  · exact hset
  · rw [or_and_of_right hrs, or_and_of_right hp.en_rs, nibble_or hdata, nibble_or hp.en_data]
    exact ⟨rfl, rfl⟩
  · exact hset

/-- The three bytes of a nibble hold its data nibble. -/
theorem map_nibbleBytes {p : Masks} (hp : p.Apart) {b : Byte} (hrs : b &&& p.rs = 0#8) (hdata : b &&& 0xF0#8 = 0#8)
    (n : Byte) : (nibbleBytes p b n).map (·.extractLsb' 4 4) = List.replicate 3 (n.extractLsb' 4 4) :=
  List.map_eq_replicate_iff.mpr fun _ hx => (nibbleBytes_bits hp hrs hdata hx).2

/-- Settles O16: the six bytes are those of two nibbles, whose bits come from the data nibble, the mode and the flag. -/
theorem sendBytesCarryTheirControlBits : Obligations.SendBytesCarryTheirControlBits := by
  intro s v m hp hk
  have hapart := Masks.apart_of_legal hp
  obtain ⟨-, hrs, hdata⟩ := backlightBit_apart hapart
  rw [backlightBit_eq_blBit] at hrs hdata
  have hok : emissionOk s.omega s.txn (outsOf (blBit s) (send s.masks v m)) = true := (emissionOk_iff ..).mpr hk
  have hcost := cost_emission s.cfg.addr s.omega _ _ hok
  rw [outsCost_send, cost, Prod.mk.injEq, Prod.mk.injEq] at hcost
  obtain ⟨htx, hwaits, -⟩ := hcost
  refine ⟨_, (runPlan_emits (send s.masks v m) s).2.1, htx, hwaits, ?_, fun b hb => ?_⟩
  · rw [txBytes_send v m hapart hk, List.map_append, map_nibbleBytes hapart hrs hdata, map_nibbleBytes hapart hrs hdata,
      highNibble, lowNibble, data_nibble hapart, data_nibble hapart, nibble_high, nibble_low]
  · have hmem := mem_txBytes_emission hb
    rw [outsOf_byte_and (send_tame (spares_bl hapart) v m) hmem, outsOf_byte_and (send_tame (spares_rw hapart) v m) hmem]
    refine ⟨?_, backlightBit_and_bl hapart s.bl, backlightBit_and_rw hapart s.bl⟩
    rw [txBytes_send v m hapart hk, List.mem_append] at hb
    rcases hb with hb | hb
    · rw [(nibbleBytes_bits hapart hrs hdata hb).1]
      exact data_and_rs hapart v m
    · rw [(nibbleBytes_bits hapart hrs hdata hb).1]
      exact data_and_rs hapart (v <<< 4) m

/-! ## The bytes of INIT (R111) -/

/-- Settles O19: with the default masks, two rows and the flag set INIT's expansion is a closed list. -/
theorem successfulInitEmitsTheListedBytes : Obligations.SuccessfulInitEmitsTheListedBytes := by
  intro s hf hmasks hrows hbl hk
  obtain ⟨hok, -, -, hsum⟩ := busExpansion_of_nextOk (i := .init) hk
  obtain ⟨hlength, hbytes, -, -⟩ := emission_of_ok s.cfg.addr s.omega _ _ hok
  have hfun : funBits s.cfg = 0x08#8 := (functionSetBitsFollowTheConfiguration.1 s.cfg (by rw [hrows]; decide)).1
  have hbit : blBit s = 0x08#8 := by rw [blBit, hbl, hmasks]; rfl
  rw [busExpansion_init] at hlength hbytes
  refine ⟨_, _, exec_init hf, ran_trace .init s, ?_, hsum, ?_⟩
  · rw [busExpansion_init, hlength]
    simp [initOuts, commandOuts, byteOuts, nibbleOuts]
  · rw [busExpansion_init, hbytes]
    simp only [initOuts, commandOuts, hfun, hbit, hmasks]
    decide

/-! ## PRINTSTR (R115) -/

theorem fullSends_le (omega : Nat → TxOutcome) (text : List Byte) : ∀ n, fullSends omega n text ≤ text.length := by
  induction text with
  | nil => exact fun n => Nat.le_refl 0
  | cons b bs ih =>
    intro n
    rw [fullSends]
    split
    · rw [List.length_cons, Nat.add_comm]
      exact Nat.succ_le_succ (ih _)
    · exact Nat.zero_le _

/-- A byte's expansion is ok when its six transactions are. -/
theorem emissionOk_byteOuts (omega : Nat → TxOutcome) (n : Nat) (p : Masks) (b v r : Byte) :
    emissionOk omega n (byteOuts p b v r) = (txOk (omega n) && txOk (omega (n + 1)) && txOk (omega (n + 2)) &&
      txOk (omega (n + 3)) && txOk (omega (n + 4)) && txOk (omega (n + 5))) := by
  simp [byteOuts, nibbleOuts, emissionOk, Bool.and_assoc, Nat.add_assoc]

/-- The loop counts, mod 2^16, the bytes whose six transactions are all ok. -/
theorem printLoop_count (bs : List Byte) : ∀ (k : BitVec 16) (s : State),
    (printLoop s.masks bs k s).1 = k + BitVec.ofNat 16 (fullSends s.omega s.txn bs) := by
  induction bs with
  | nil => exact fun k s => (BitVec.add_zero k).symm
  | cons b bs ih =>
    intro k s
    have hsix := (runPlan_emits (send s.masks b .data) s).1.trans (emissionOk_byteOuts ..)
    rw [printLoop, fullSends, ← hsix]
    cases hok : (runPlan (send s.masks b .data) s).1 with
    | true =>
      have htxn : (runPlan (send s.masks b .data) s).2.txn = s.txn + 6 := runPlan_txn_of_ok _ s hok
      have hnext := ih (k + 1#16) (runPlan (send s.masks b .data) s).2
      rw [runPlan_masks, runPlan_omega, htxn] at hnext
      rw [if_pos rfl, if_pos rfl, hnext, BitVec.add_assoc, ← BitVec.ofNat_add_ofNat]
    | false => exact (BitVec.add_zero k).symm

/-- Settles O29: the loop runs the plan that sends the bytes one after the other, and counts those sent in full. -/
theorem printstrSendsAndCountsItsBytes : Obligations.PrintstrSendsAndCountsItsBytes := by
  refine ⟨by decide, fun text => faultsBeforeInit (by simp), fun s text ha _ => ⟨fullSends_le .., ?_⟩⟩
  have hemitted := (runPlan_emits (sendAll s.masks text) s).2
  rw [outsOf_sendAll] at hemitted
  obtain ⟨hdfun, hdctl, hdmode, hstate⟩ := runPlan_quiet (s := s) (sendAll_quiet s.masks text)
  refine ⟨_, execPrintstr_accepts ha text, hemitted, ⟨?_, ?_, ?_⟩, runPlan_sameParameters _ s, ⟨hdfun, hdctl, hdmode⟩,
    ⟨runPlan_initCalled _ s, hstate⟩, runPlan_bl _ s⟩
  · rw [complete_pc, runPlan_pc]
    rfl
  · rw [complete_responses, runPlan_responses, completedWord_eq, printLoop_count, BitVec.zero_add]
  · rw [complete_fault, runPlan_fault, ha.1]

/-! ## The command-byte rows -/

/-- Settles O32: the meaning of each row is the request of its byte, with COMMAND's opcode and length. -/
theorem commandByteRowsAreSentAsCommands : Obligations.CommandByteRowsAreSentAsCommands := by
  intro i b h
  have hsame : ∀ s, exec i s = exec (.command b) s := fun s => by
    cases i with
    | lcdClear | lcdHome | lcdEntryMode | lcdDisplayControl | lcdShift | lcdFunctionSet | lcdSetCgram | lcdSetDdram =>
      cases h
      rfl
    | _ => cases h
  refine ⟨hsame, fun s ha => ?_⟩
  rw [Completes, hsame]
  exact completes_command ha (exec_command b s) rfl

end Sys2Proof.Machine
end
